-- ==== Sys2Proof/Word.lean ====
section
/-! DEFINITION. The word types of the engine: bytes, the 16-bit instruction word, the operand fields (00_scope.md R13, R14). -/

namespace Sys2Proof

/-- An 8-bit value: a general register, a timer, a byte of memory (R14, R21, R50). -/
abbrev Byte := BitVec 8

/-- A 16-bit value: an instruction word, pc, I, a return-stack entry (R14, R20, R70). -/
abbrev Word := BitVec 16

/-- A 4-bit index of a general register, V0 to VF (R21, R72). -/
abbrev RegIdx := BitVec 4

/-- A 4-bit index of a key, 0 to F (R33). -/
abbrev KeyIdx := BitVec 4

/-- A 12-bit address operand (R71, R74). -/
abbrev Addr := BitVec 12

/-- The number of VF, the register that doubles as the flag (R22). -/
abbrev vF : RegIdx := 0xF#4

end Sys2Proof
end

