-- ==== Sys2Proof/Syntax.lean ====
section
/-! DEFINITION. The 35 operations of the opcode map (30_encoding.md R80), one constructor a row of spec/opcode_table.json. -/

namespace Sys2Proof

/-- A decoded instruction. Each constructor carries the fields its row names (R75), and the fields its operation ignores where the word has
them (the address of SYS, the y of SHR and SHL, R85), so that an instruction has exactly one word (log 34). -/
inductive Instr where
  /-- 00E0: clear the display (R210). -/
  | cls
  /-- 00EE: return from a subroutine (R140). -/
  | ret
  /-- 0nnn, other than 00E0 and 00EE: the ignored machine-code call (R141). -/
  | sys (nnn : Addr)
  /-- 1nnn: jump (R142). -/
  | jp (nnn : Addr)
  /-- 2nnn: call a subroutine (R143). -/
  | call (nnn : Addr)
  /-- 3xkk: skip if Vx = kk (R144). -/
  | seImm (x : RegIdx) (kk : Byte)
  /-- 4xkk: skip if Vx is not kk (R145). -/
  | sneImm (x : RegIdx) (kk : Byte)
  /-- 5xy0: skip if Vx = Vy (R146). -/
  | seReg (x y : RegIdx)
  /-- 6xkk: Vx := kk (R160). -/
  | ldImm (x : RegIdx) (kk : Byte)
  /-- 7xkk: Vx := Vx + kk, no flag (R161). -/
  | addImm (x : RegIdx) (kk : Byte)
  /-- 8xy0: Vx := Vy (R164). -/
  | ldReg (x y : RegIdx)
  /-- 8xy1: Vx := Vx or Vy (R165). -/
  | orReg (x y : RegIdx)
  /-- 8xy2: Vx := Vx and Vy (R166). -/
  | andReg (x y : RegIdx)
  /-- 8xy3: Vx := Vx exclusive-or Vy (R167). -/
  | xorReg (x y : RegIdx)
  /-- 8xy4: Vx := Vx + Vy, VF := carry (R168). -/
  | addReg (x y : RegIdx)
  /-- 8xy5: Vx := Vx - Vy, VF := no borrow (R169). -/
  | subReg (x y : RegIdx)
  /-- 8xy6: Vx := Vx shifted right by one, VF := the bit shifted out; y is ignored (R170). -/
  | shr (x y : RegIdx)
  /-- 8xy7: Vx := Vy - Vx, VF := no borrow (R171). -/
  | subnReg (x y : RegIdx)
  /-- 8xyE: Vx := Vx shifted left by one, VF := the bit shifted out; y is ignored (R172). -/
  | shl (x y : RegIdx)
  /-- 9xy0: skip if Vx is not Vy (R147). -/
  | sneReg (x y : RegIdx)
  /-- Annn: I := nnn (R190). -/
  | ldI (nnn : Addr)
  /-- Bnnn: jump to nnn + V0 (R150). -/
  | jpV0 (nnn : Addr)
  /-- Cxkk: Vx := a random byte and kk (R173). -/
  | rnd (x : RegIdx) (kk : Byte)
  /-- Dxyn: draw an n-row sprite at (Vx, Vy), VF := collision (R212). -/
  | drw (x y : RegIdx) (n : BitVec 4)
  /-- Ex9E: skip if the key Vx is pressed (R230). -/
  | skp (x : RegIdx)
  /-- ExA1: skip if the key Vx is not pressed (R231). -/
  | sknp (x : RegIdx)
  /-- Fx07: Vx := DT (R234). -/
  | ldVxDT (x : RegIdx)
  /-- Fx0A: wait for a key press, then Vx := the key (R232). -/
  | ldVxK (x : RegIdx)
  /-- Fx15: DT := Vx (R235). -/
  | ldDTVx (x : RegIdx)
  /-- Fx18: ST := Vx (R236). -/
  | ldSTVx (x : RegIdx)
  /-- Fx1E: I := I + Vx (R191). -/
  | addIVx (x : RegIdx)
  /-- Fx29: I := the address of the glyph of the digit Vx (R192). -/
  | ldFVx (x : RegIdx)
  /-- Fx33: store the decimal digits of Vx at I, I+1, I+2 (R196). -/
  | ldBVx (x : RegIdx)
  /-- Fx55: store V0 to Vx at I (R197). -/
  | ldMemVx (x : RegIdx)
  /-- Fx65: load V0 to Vx from I (R198). -/
  | ldVxMem (x : RegIdx)
deriving DecidableEq, Repr

end Sys2Proof
end

