-- ==== Sys2Proof/Decode.lean ====
section
/-! DEFINITION. The decoder (30_encoding.md R70-R85): field extraction, total on every word; the selection of an operation, which rejects the
unrecognised words by name; the same on bytes, as memory holds them; then the encoder, from the same tables; then the opcode map of R80 as
data, and the mnemonics. -/

namespace Sys2Proof

/-- The fields of a word: "raw word, class nibble, 12-bit address, two 4-bit register indices, 8-bit immediate, 4-bit nibble" (R71, R105). -/
structure Fields where
  raw    : Word
  cls    : BitVec 4
  addr   : BitVec 12
  regX   : BitVec 4
  regY   : BitVec 4
  byte   : BitVec 8
  nibble : BitVec 4
deriving DecidableEq, Repr

/-- Field extraction, by fixed bit ranges, total and pure (R71, R73). -/
def decodeFields (w : Word) : Fields where
  raw    := w
  cls    := w.extractLsb' 12 4
  addr   := w.extractLsb' 0 12
  regX   := w.extractLsb' 8 4
  regY   := w.extractLsb' 4 4
  byte   := w.extractLsb' 0 8
  nibble := w.extractLsb' 0 4

/-- Why the decoder gives no instruction. -/
inductive DecodeError where
  /-- The word is one of the unrecognised encodings of R83. -/
  | unknownOpcode (w : Word)
  /-- Fewer than the two bytes of an instruction were given. -/
  | truncated
deriving DecidableEq, Repr

/-- Class 0, split by the whole word (R81). -/
def selectClass0 (d : Fields) : Except DecodeError Instr :=
  match d.raw with
  | 0x00E0#16 => .ok .cls
  | 0x00EE#16 => .ok .ret
  | _ => .ok (.sys d.addr)

/-- Class 5, split by the nibble (R82). -/
def selectClass5 (d : Fields) : Except DecodeError Instr :=
  match d.nibble with
  | 0x0#4 => .ok (.seReg d.regX d.regY)
  | _ => .error (.unknownOpcode d.raw)

/-- Class 8, split by the nibble (R82). -/
def selectClass8 (d : Fields) : Except DecodeError Instr :=
  match d.nibble with
  | 0x0#4 => .ok (.ldReg d.regX d.regY)
  | 0x1#4 => .ok (.orReg d.regX d.regY)
  | 0x2#4 => .ok (.andReg d.regX d.regY)
  | 0x3#4 => .ok (.xorReg d.regX d.regY)
  | 0x4#4 => .ok (.addReg d.regX d.regY)
  | 0x5#4 => .ok (.subReg d.regX d.regY)
  | 0x6#4 => .ok (.shr d.regX d.regY)
  | 0x7#4 => .ok (.subnReg d.regX d.regY)
  | 0xE#4 => .ok (.shl d.regX d.regY)
  | _ => .error (.unknownOpcode d.raw)

/-- Class 9, split by the nibble (R82). -/
def selectClass9 (d : Fields) : Except DecodeError Instr :=
  match d.nibble with
  | 0x0#4 => .ok (.sneReg d.regX d.regY)
  | _ => .error (.unknownOpcode d.raw)

/-- Class E, split by the byte (R82). -/
def selectClassE (d : Fields) : Except DecodeError Instr :=
  match d.byte with
  | 0x9E#8 => .ok (.skp d.regX)
  | 0xA1#8 => .ok (.sknp d.regX)
  | _ => .error (.unknownOpcode d.raw)

/-- Class F, split by the byte (R82). -/
def selectClassF (d : Fields) : Except DecodeError Instr :=
  match d.byte with
  | 0x07#8 => .ok (.ldVxDT d.regX)
  | 0x0A#8 => .ok (.ldVxK d.regX)
  | 0x15#8 => .ok (.ldDTVx d.regX)
  | 0x18#8 => .ok (.ldSTVx d.regX)
  | 0x1E#8 => .ok (.addIVx d.regX)
  | 0x29#8 => .ok (.ldFVx d.regX)
  | 0x33#8 => .ok (.ldBVx d.regX)
  | 0x55#8 => .ok (.ldMemVx d.regX)
  | 0x65#8 => .ok (.ldVxMem d.regX)
  | _ => .error (.unknownOpcode d.raw)

/-- The selection of an operation: by class, then by the sub-key where the class has one (R80, R82). -/
def selectOp (d : Fields) : Except DecodeError Instr :=
  match d.cls with
  | 0x0#4 => selectClass0 d
  | 0x1#4 => .ok (.jp d.addr)
  | 0x2#4 => .ok (.call d.addr)
  | 0x3#4 => .ok (.seImm d.regX d.byte)
  | 0x4#4 => .ok (.sneImm d.regX d.byte)
  | 0x5#4 => selectClass5 d
  | 0x6#4 => .ok (.ldImm d.regX d.byte)
  | 0x7#4 => .ok (.addImm d.regX d.byte)
  | 0x8#4 => selectClass8 d
  | 0x9#4 => selectClass9 d
  | 0xA#4 => .ok (.ldI d.addr)
  | 0xB#4 => .ok (.jpV0 d.addr)
  | 0xC#4 => .ok (.rnd d.regX d.byte)
  | 0xD#4 => .ok (.drw d.regX d.regY d.nibble)
  | 0xE#4 => selectClassE d
  | _ => selectClassF d

/-- The instruction a 16-bit word stands for, or the rejection of an unrecognised word (R80, R83). -/
def decodeWord (w : Word) : Except DecodeError Instr :=
  selectOp (decodeFields w)

/-- The word two bytes of memory make: the byte at the lower address is bits 15-8 (R53). -/
def wordOfBytes (hi lo : Byte) : Word :=
  hi ++ lo

/-- The two bytes of a word in memory order, the most significant first (R16, R53). -/
def bytesOfWord (w : Word) : List Byte :=
  [w.extractLsb' 8 8, w.extractLsb' 0 8]

/-- The decoder on bytes as memory holds them: total, it gives the instruction with the bytes after it, or a named rejection (R53, R70). -/
def decode : List Byte → Except DecodeError (Instr × List Byte)
  | hi :: lo :: rest =>
    match decodeWord (wordOfBytes hi lo) with
    | .ok i => .ok (i, rest)
    | .error e => .error e
  | _ => .error .truncated

/-- A word of the form cnnn (R75). -/
def wordNnn (c : BitVec 4) (nnn : Addr) : Word :=
  c ++ nnn

/-- A word of the form cxkk (R75); with the byte a sub-key, the form of classes E and F. -/
def wordXkk (c : BitVec 4) (x : RegIdx) (kk : Byte) : Word :=
  c ++ x ++ kk

/-- A word of the form cxyn (R75); with the nibble a sub-key, the form of classes 5, 8 and 9. -/
def wordXyn (c : BitVec 4) (x y : RegIdx) (n : BitVec 4) : Word :=
  c ++ x ++ y ++ n

/-- The encoder: the word of an instruction (R75, R80). -/
def encode : Instr → Word
  | .cls => 0x00E0#16
  | .ret => 0x00EE#16
  | .sys nnn => wordNnn 0x0#4 nnn
  | .jp nnn => wordNnn 0x1#4 nnn
  | .call nnn => wordNnn 0x2#4 nnn
  | .seImm x kk => wordXkk 0x3#4 x kk
  | .sneImm x kk => wordXkk 0x4#4 x kk
  | .seReg x y => wordXyn 0x5#4 x y 0x0#4
  | .ldImm x kk => wordXkk 0x6#4 x kk
  | .addImm x kk => wordXkk 0x7#4 x kk
  | .ldReg x y => wordXyn 0x8#4 x y 0x0#4
  | .orReg x y => wordXyn 0x8#4 x y 0x1#4
  | .andReg x y => wordXyn 0x8#4 x y 0x2#4
  | .xorReg x y => wordXyn 0x8#4 x y 0x3#4
  | .addReg x y => wordXyn 0x8#4 x y 0x4#4
  | .subReg x y => wordXyn 0x8#4 x y 0x5#4
  | .shr x y => wordXyn 0x8#4 x y 0x6#4
  | .subnReg x y => wordXyn 0x8#4 x y 0x7#4
  | .shl x y => wordXyn 0x8#4 x y 0xE#4
  | .sneReg x y => wordXyn 0x9#4 x y 0x0#4
  | .ldI nnn => wordNnn 0xA#4 nnn
  | .jpV0 nnn => wordNnn 0xB#4 nnn
  | .rnd x kk => wordXkk 0xC#4 x kk
  | .drw x y n => wordXyn 0xD#4 x y n
  | .skp x => wordXkk 0xE#4 x 0x9E#8
  | .sknp x => wordXkk 0xE#4 x 0xA1#8
  | .ldVxDT x => wordXkk 0xF#4 x 0x07#8
  | .ldVxK x => wordXkk 0xF#4 x 0x0A#8
  | .ldDTVx x => wordXkk 0xF#4 x 0x15#8
  | .ldSTVx x => wordXkk 0xF#4 x 0x18#8
  | .addIVx x => wordXkk 0xF#4 x 0x1E#8
  | .ldFVx x => wordXkk 0xF#4 x 0x29#8
  | .ldBVx x => wordXkk 0xF#4 x 0x33#8
  | .ldMemVx x => wordXkk 0xF#4 x 0x55#8
  | .ldVxMem x => wordXkk 0xF#4 x 0x65#8

/-- The word of the opcode table's row, bit 0 the least significant: the nbits given, every bit above them 0. -/
def tableWord (nbits w : Nat) : Word :=
  BitVec.ofNat 16 (w % 2 ^ nbits)

/-- What the decoder reads from an instruction whose bits are w, laid out in memory as the hardware stores it. -/
def decodeTableWord (nbits w : Nat) : Option Instr :=
  match decode (bytesOfWord (tableWord nbits w)) with
  | .ok (i, _) => some i
  | .error _ => none

/-- A row of the opcode map (R80): a word w selects it when w and mask = pattern. -/
structure OpcodeRow where
  mask     : Word
  pattern  : Word
  mnemonic : String
deriving DecidableEq, Repr

/-- The opcode map of R80, in its order; rows 1 and 2 take precedence over row 3 (R80, R81). The mnemonics are those of spec/opcode_table.json. -/
def opcodeMap : List OpcodeRow :=
  [⟨0xFFFF#16, 0x00E0#16, "CLS"⟩, ⟨0xFFFF#16, 0x00EE#16, "RET"⟩, ⟨0xF000#16, 0x0000#16, "SYS_addr"⟩,
   ⟨0xF000#16, 0x1000#16, "JP_addr"⟩, ⟨0xF000#16, 0x2000#16, "CALL_addr"⟩, ⟨0xF000#16, 0x3000#16, "SE_Vx__byte"⟩,
   ⟨0xF000#16, 0x4000#16, "SNE_Vx__byte"⟩, ⟨0xF00F#16, 0x5000#16, "SE_Vx__Vy"⟩, ⟨0xF000#16, 0x6000#16, "LD_Vx__byte"⟩,
   ⟨0xF000#16, 0x7000#16, "ADD_Vx__byte"⟩] ++
  [⟨0xF00F#16, 0x8000#16, "LD_Vx__Vy"⟩, ⟨0xF00F#16, 0x8001#16, "OR_Vx__Vy"⟩, ⟨0xF00F#16, 0x8002#16, "AND_Vx__Vy"⟩,
   ⟨0xF00F#16, 0x8003#16, "XOR_Vx__Vy"⟩, ⟨0xF00F#16, 0x8004#16, "ADD_Vx__Vy"⟩, ⟨0xF00F#16, 0x8005#16, "SUB_Vx__Vy"⟩,
   ⟨0xF00F#16, 0x8006#16, "SHR_Vx"⟩, ⟨0xF00F#16, 0x8007#16, "SUBN_Vx__Vy"⟩, ⟨0xF00F#16, 0x800E#16, "SHL_Vx"⟩,
   ⟨0xF00F#16, 0x9000#16, "SNE_Vx__Vy"⟩] ++
  [⟨0xF000#16, 0xA000#16, "LD_I__addr"⟩, ⟨0xF000#16, 0xB000#16, "JP_V0__addr"⟩, ⟨0xF000#16, 0xC000#16, "RND_Vx__byte"⟩,
   ⟨0xF000#16, 0xD000#16, "DRW_Vx__Vy__n"⟩, ⟨0xF0FF#16, 0xE09E#16, "SKP_Vx"⟩, ⟨0xF0FF#16, 0xE0A1#16, "SKNP_Vx"⟩,
   ⟨0xF0FF#16, 0xF007#16, "LD_Vx__DT"⟩, ⟨0xF0FF#16, 0xF00A#16, "LD_Vx__K"⟩, ⟨0xF0FF#16, 0xF015#16, "LD_DT__Vx"⟩,
   ⟨0xF0FF#16, 0xF018#16, "LD_ST__Vx"⟩, ⟨0xF0FF#16, 0xF01E#16, "ADD_I__Vx"⟩, ⟨0xF0FF#16, 0xF029#16, "LD_F__Vx"⟩,
   ⟨0xF0FF#16, 0xF033#16, "LD_B__Vx"⟩, ⟨0xF0FF#16, 0xF055#16, "LD__I___Vx"⟩, ⟨0xF0FF#16, 0xF065#16, "LD_Vx___I"⟩]

/-- The mnemonic of an instruction, as spec/opcode_table.json spells it (R80, R91). -/
def Instr.mnemonic : Instr → String
  | .cls => "CLS"
  | .ret => "RET"
  | .sys _ => "SYS_addr"
  | .jp _ => "JP_addr"
  | .call _ => "CALL_addr"
  | .seImm _ _ => "SE_Vx__byte"
  | .sneImm _ _ => "SNE_Vx__byte"
  | .seReg _ _ => "SE_Vx__Vy"
  | .ldImm _ _ => "LD_Vx__byte"
  | .addImm _ _ => "ADD_Vx__byte"
  | .ldReg _ _ => "LD_Vx__Vy"
  | .orReg _ _ => "OR_Vx__Vy"
  | .andReg _ _ => "AND_Vx__Vy"
  | .xorReg _ _ => "XOR_Vx__Vy"
  | .addReg _ _ => "ADD_Vx__Vy"
  | .subReg _ _ => "SUB_Vx__Vy"
  | .shr _ _ => "SHR_Vx"
  | .subnReg _ _ => "SUBN_Vx__Vy"
  | .shl _ _ => "SHL_Vx"
  | .sneReg _ _ => "SNE_Vx__Vy"
  | .ldI _ => "LD_I__addr"
  | .jpV0 _ => "JP_V0__addr"
  | .rnd _ _ => "RND_Vx__byte"
  | .drw _ _ _ => "DRW_Vx__Vy__n"
  | .skp _ => "SKP_Vx"
  | .sknp _ => "SKNP_Vx"
  | .ldVxDT _ => "LD_Vx__DT"
  | .ldVxK _ => "LD_Vx__K"
  | .ldDTVx _ => "LD_DT__Vx"
  | .ldSTVx _ => "LD_ST__Vx"
  | .addIVx _ => "ADD_I__Vx"
  | .ldFVx _ => "LD_F__Vx"
  | .ldBVx _ => "LD_B__Vx"
  | .ldMemVx _ => "LD__I___Vx"
  | .ldVxMem _ => "LD_Vx___I"

/-- The mnemonic of a word, or an unknown-opcode mnemonic where no row of the map matches it (R91; the operand text is left out, R8). That its
text is "UNKNOWN" is the model's choice: "its exact text is not given" (R90; DESIGN CHOICE, log 40). -/
def disassemble (w : Word) : String :=
  match decodeWord w with
  | .ok i => i.mnemonic
  | .error _ => "UNKNOWN"

end Sys2Proof
end

