-- ==== Sys2Proof/Config.lean ====
section
/-! DEFINITION. What is fixed for the machine: the sizes of R10, the parameters of R11 with the values they can take, and the one free value of
the spec, the random byte (R114). The values this spec takes are in Sys2Proof/Machine/Params.lean, where a repair can mend them; the machine as
a function of all parameters is in Sys2Proof/Machine/Parameters.lean. -/

namespace Sys2Proof

/-- The size of memory in bytes (R10, R50). -/
abbrev Config.memSize : Nat := 4096

/-- The address a program is loaded at and execution starts from (R10, R56). -/
abbrev Config.programBase : Nat := 0x200

/-- The longest program image, 4096 - 0x200 bytes (R10, R283). -/
abbrev Config.maxProgram : Nat := 3584

/-- What DRW does with a pixel past the right or bottom edge: the parameter SPRITE_EDGE (R11, R214). -/
inductive SpriteEdge where
  | clip
  | wrap
deriving DecidableEq, Repr

/-- What an unrecognised encoding does: the parameter UNKNOWN_OPCODE_POLICY (R11, R107). -/
inductive UnknownOpcodePolicy where
  | fatal
  | skip
deriving DecidableEq, Repr

/-- The parameters of R11 that have a value, each by its name there; the fifth, RND, is the free value below. -/
structure Params where
  fontBase            : Nat
  fontGlyphs          : List Byte
  spriteEdge          : SpriteEdge
  unknownOpcodePolicy : UnknownOpcodePolicy
deriving DecidableEq, Repr

/-- The values R11 allows: "any address with FONT_BASE + 80 <= 0x200" and "any 80 bytes". -/
abbrev Params.legal (p : Params) : Prop :=
  p.fontBase + 80 ≤ Config.programBase ∧ p.fontGlyphs.length = 80

/-- The random bytes, in the order in which RND executions draw them: the parameter RND (R11, R114). A FREE VALUE: no source constrains it,
it has no body, and nothing can be proved of its values (log 1). -/
opaque Config.rndDraw : Nat → Byte

end Sys2Proof
end

