-- ==== Sys2Proof/Machine/Params.lean ====
section
/-! DEFINITION. The values this model takes for the parameters of 00_scope.md R11, where a repair can mend them. -/

namespace Sys2Proof.Machine

/-- FONT_BASE: the address of the font table (R11, R38; log 2). -/
def Param.fontBase : Nat := 0x050

/-- FONT_GLYPHS: sixteen glyphs of five bytes, one row a byte (R11, R38; log 3). -/
def Param.fontGlyphs : List Byte :=
  [0xF0, 0x90, 0x90, 0x90, 0xF0] ++ [0x20, 0x60, 0x20, 0x20, 0x70] ++
  [0xF0, 0x10, 0xF0, 0x80, 0xF0] ++ [0xF0, 0x10, 0xF0, 0x10, 0xF0] ++
  [0x90, 0x90, 0xF0, 0x10, 0x10] ++ [0xF0, 0x80, 0xF0, 0x10, 0xF0] ++
  [0xF0, 0x80, 0xF0, 0x90, 0xF0] ++ [0xF0, 0x10, 0x20, 0x40, 0x40] ++
  [0xF0, 0x90, 0xF0, 0x90, 0xF0] ++ [0xF0, 0x90, 0xF0, 0x10, 0xF0] ++
  [0xF0, 0x90, 0xF0, 0x90, 0x90] ++ [0xE0, 0x90, 0xE0, 0x90, 0xE0] ++
  [0xF0, 0x80, 0x80, 0x80, 0xF0] ++ [0xE0, 0x90, 0x90, 0x90, 0xE0] ++
  [0xF0, 0x80, 0xF0, 0x80, 0xF0] ++ [0xF0, 0x80, 0xF0, 0x80, 0x80]

/-- SPRITE_EDGE: what happens to pixels past the right or bottom edge (R11, R214; log 4). -/
def Param.spriteEdge : SpriteEdge := .clip

/-- UNKNOWN_OPCODE_POLICY: what an unrecognised word does (R11, R107; log 5). -/
def Param.unknownOpcodePolicy : UnknownOpcodePolicy := .fatal

/-- The four together: "this spec's value" of each parameter (R11). -/
def Param.values : Params where
  fontBase := Param.fontBase
  fontGlyphs := Param.fontGlyphs
  spriteEdge := Param.spriteEdge
  unknownOpcodePolicy := Param.unknownOpcodePolicy

end Sys2Proof.Machine
end

