-- ==== Sys2Proof/Machine/State.lean ====
section
/-! DEFINITION. The architectural state of the engine (10_state.md R20-R37), as plain data, its value after reset (70_reset_and_hazards.md
R280), and the reasons a step or a transaction can stop with. -/

namespace Sys2Proof.Machine

/-- The kinds of fatal error a STEP can raise (R251). -/
inductive FaultKind where
  /-- The word matches no row of the opcode map (R83, R107). -/
  | unknownOpcode
  /-- CALL with sixteen entries on the return stack (R143). -/
  | stackOverflow
  /-- A data access through I would pass the end of memory (R55). -/
  | memoryBoundsViolation
deriving DecidableEq, Repr

/-- The run status (R36): a faulted engine records the kind, the address of the faulting instruction and its word (R251, R254). -/
inductive Status where
  | running
  | halted
  | faulted (kind : FaultKind) (addr : Word) (word : Word)
deriving DecidableEq, Repr

/-- Memory as the bytes that differ from what an address reads as when it is not listed, its reset content (R38, R39; log 32). In its
canonical form (Memory.wf) the addresses rise strictly, each exists, and no entry equals what its address would read as unlisted. -/
abbrev Memory := List Host.Cell

/-- The display: disp[x][y] is the pixel at column x of 64 and row y of 32 (R32). -/
abbrev Display := Vector (Vector Bool 32) 64

/-- The state record of R20, and one field of the model's own, draws. -/
structure State where
  /-- General registers V0 to VF (R21). -/
  V : Vector Byte 16
  /-- The index register; every write is masked to 12 bits (R24). -/
  I : Word
  /-- The address of the next instruction to fetch; while one at a executes, a + 2 (R25, R103). -/
  pc : Word
  /-- The return stack (R28). -/
  stack : Vector Word 16
  /-- The number of return-stack entries in use, 0 to 16 (R29). -/
  sp : Fin 17
  /-- The delay timer (R30). -/
  DT : Byte
  /-- The sound timer (R31). -/
  ST : Byte
  /-- Memory, 4096 bytes (R20, R50). -/
  mem : Memory
  /-- The display buffer (R32). -/
  disp : Display
  /-- The key states, true for pressed (R33). -/
  key : Vector Bool 16
  /-- The destination register of a pending key wait (R34). -/
  wait : Option RegIdx
  /-- The key whose press ends the wait (R35). -/
  kev : Option KeyIdx
  /-- The run status (R36). -/
  status : Status
  /-- THE MODEL'S OWN: how many random bytes have been drawn; it selects the free value of the next RND (R114, log 1). -/
  draws : Nat
deriving DecidableEq, Repr

/-- The state RESET creates (R280). -/
def State.reset : State where
  V := Vector.replicate 16 0x00#8
  I := 0x0000#16
  pc := 0x0200#16
  stack := Vector.replicate 16 0x0000#16
  sp := 0
  DT := 0x00#8
  ST := 0x00#8
  mem := []
  disp := Vector.replicate 64 (Vector.replicate 32 false)
  key := Vector.replicate 16 false
  wait := none
  kev := none
  status := .running
  draws := 0

/-- Stops outside the architecture: there are none. Every fatal error of this hardware is an architectural event that the spec describes
whole (R254): it is a next state whose status is faulted, so that TICK, SET_KEY and the reads go on working after it (R262, log 14).
No definition of the model raises a value of this type, and it has none: safe. -/
inductive Fault
deriving DecidableEq, Repr

/-- Reasons the model refuses. No step and no instruction raises one of the last two: they answer transactions of the host out of their place. -/
inductive Refusal where
  /-- Raised by an arm of exec whose instruction has no meaning yet; there is none left. Safe. -/
  | notModelled (mnemonic : String)
  /-- Raised by the transaction LOAD when it is not the first LOAD on the state RESET produced, before the first STEP: "a LOAD at any other
  time is outside this spec and a model refuses it" (R284, log 23). Safe. -/
  | loadOutOfPlace
  /-- Raised by the transaction STEP after a LOAD that failed: "run never begins" (R283, log 23). Safe. -/
  | runNeverBegan
deriving DecidableEq, Repr

end Sys2Proof.Machine
end

