-- ==== Sys2Proof/Machine/Ops.lean ====
section
/-! DEFINITION. The named operations on memory, registers, pc, return stack, display, key wait and status, and fault entry, which every
instruction's meaning is written over. -/

namespace Sys2Proof.Machine

/-! ### Memory (00_scope.md R16, 20_memory.md R50-R58) -/

/-- The reset content of an address: the font table at FONT_BASE, zero elsewhere (R38, R39). FONT_BASE and FONT_GLYPHS are arguments (R11). -/
def Memory.resetByte (fontBase : Nat) (fontGlyphs : List Byte) (a : Nat) : Byte :=
  if fontBase ≤ a then fontGlyphs.getD (a - fontBase) 0x00#8 else 0x00#8

/-- What an address reads as when nothing has been written to it: its reset content under the values this spec takes (R38, R39; log 32). -/
def Memory.unlisted (a : Nat) : Byte :=
  Memory.resetByte Param.fontBase Param.fontGlyphs a

/-- The byte at an address (R16, R58). -/
def Memory.byteAt : Memory → Nat → Byte
  | [], a => Memory.unlisted a
  | (b, v) :: m, a => if b = a then v else Memory.byteAt m a

/-- Put a cell before the first listed address above it. -/
def Memory.insertCell (a : Nat) (v : Byte) : Memory → Memory
  | [] => [(a, v)]
  | (b, u) :: m => if a < b then (a, v) :: (b, u) :: m else (b, u) :: Memory.insertCell a v m

/-- Write one byte, keeping the canonical form: a byte equal to what its address reads as unlisted is not listed (R16). -/
def Memory.write (m : Memory) (a : Nat) (v : Byte) : Memory :=
  if v = Memory.unlisted a then m.filter (fun c => c.1 ≠ a) else Memory.insertCell a v (m.filter (fun c => c.1 ≠ a))

/-- Write bytes at rising addresses (R16, R53). -/
def Memory.writeBytes : Memory → Nat → List Byte → Memory
  | m, _, [] => m
  | m, a, b :: bs => Memory.writeBytes (Memory.write m a b) (a + 1) bs

/-- The memory at reset under any font table: its reserved range holds the table and zeros, what is above it zero (R38, R39, R57). Under the
values this spec takes it lists nothing. Irreducible, so that no elaboration runs its 512 writes by accident. -/
@[irreducible] def Memory.withFont (fontBase : Nat) (fontGlyphs : List Byte) : Memory :=
  Memory.writeBytes [] 0 ((List.range Config.programBase).map (Memory.resetByte fontBase fontGlyphs))

/-- MemRead over a range, as the list of its bytes in rising order: "Neither primitive is defined when a + n > 4096" (R16, R55). -/
def Memory.readRange (m : Memory) (a n : Nat) : Option (List Byte) :=
  if a + n ≤ Config.memSize then some ((List.range n).map fun k => Memory.byteAt m (a + k)) else none

/-- MemWrite over a range: undefined when it passes the end of memory, so that a range is checked whole before a byte moves (R16, R55). -/
def Memory.writeRange (m : Memory) (a : Nat) (bs : List Byte) : Option Memory :=
  if a + bs.length ≤ Config.memSize then some (Memory.writeBytes m a bs) else none

/-- The canonical form: addresses strictly rising, each below 4096, no entry equal to what its address reads as unlisted (log 32). -/
abbrev Memory.wf (m : Memory) : Prop :=
  List.Pairwise (fun c d => c.1 < d.1) m ∧ ∀ c ∈ m, c.1 < Config.memSize ∧ c.2 ≠ Memory.unlisted c.1

/-! ### Registers (10_state.md R21, R24, R25) -/

/-- V[x] (R15, R21). -/
def State.reg (s : State) (x : RegIdx) : Byte :=
  s.V[x.toNat]'x.isLt

/-- V[x] <- b (R15, R21). -/
def State.setReg (s : State) (x : RegIdx) (b : Byte) : State :=
  { s with V := s.V.set x.toNat b x.isLt }

/-- The bytes V0 to Vx (R197). -/
def State.regsTo (s : State) (x : RegIdx) : List Byte :=
  (List.range (x.toNat + 1)).map fun k => s.reg (BitVec.ofNat 4 k)

/-- V[k], V[k+1], ... <- the bytes, in order (R198). -/
def State.loadRegs : State → Nat → List Byte → State
  | s, _, [] => s
  | s, k, b :: bs => State.loadRegs (s.setReg (BitVec.ofNat 4 k) b) (k + 1) bs

/-- I <- v, "masked/truncated to 12 significant bits on assignment" (R24). -/
def State.setI (s : State) (v : Word) : State :=
  { s with I := v &&& 0x0FFF#16 }

/-- pc <- target (R15). -/
def State.setPc (s : State) (target : Word) : State :=
  { s with pc := target }

/-- The advance of pc by one instruction, before dispatch, and once more for a taken skip (R103, R148). -/
def State.advance (s : State) : State :=
  s.setPc (s.pc + 2#16)

/-- A conditional skip: "pc <- pc + 2" when the condition holds (R103, R148). -/
def State.skipIf (s : State) (c : Bool) : State :=
  if c then s.advance else s

/-- mem <- m. -/
def State.setMem (s : State) (m : Memory) : State :=
  { s with mem := m }

/-! ### Return stack (10_state.md R28, R29) -/

/-- Push: "stack[sp] <- v; sp <- sp + 1", only when sp < 16 (R29). -/
def State.push (s : State) (v : Word) : Option State :=
  if h : s.sp.val < 16 then
    some { s with stack := s.stack.set s.sp.val v h, sp := ⟨s.sp.val + 1, Nat.succ_lt_succ h⟩ }
  else none

/-- Pop: "sp <- sp - 1; pc <- stack[sp]", only when sp > 0; the entry keeps its value (R29). The popped address and the state with sp moved. -/
def State.pop (s : State) : Option (Word × State) :=
  if h : 0 < s.sp.val then
    some (s.stack[s.sp.val - 1]'(by have := s.sp.isLt; omega), { s with sp := ⟨s.sp.val - 1, by have := s.sp.isLt; omega⟩ })
  else none

/-! ### Timers (10_state.md R30, R31) -/

/-- DT <- v. -/
def State.setDT (s : State) (v : Byte) : State :=
  { s with DT := v }

/-- ST <- v. -/
def State.setST (s : State) (v : Byte) : State :=
  { s with ST := v }

/-! ### Display (10_state.md R32) -/

/-- disp[x][y] (R15, R32). -/
def Display.pixel (d : Display) (x : Fin 64) (y : Fin 32) : Bool :=
  (d.get x).get y

/-- disp[x][y] <- disp[x][y] exclusive-or 1 (R212). -/
def Display.flip (d : Display) (x : Fin 64) (y : Fin 32) : Display :=
  d.set x.val ((d.get x).set y.val (!(d.get x).get y) y.isLt) x.isLt

/-- Every pixel 0 (R210). -/
def Display.blank : Display :=
  Vector.replicate 64 (Vector.replicate 32 false)

/-- disp <- d. -/
def State.setDisp (s : State) (d : Display) : State :=
  { s with disp := d }

/-! ### Key wait and random draws (10_state.md R34, R35; 40_engine.md R114) -/

/-- The wait begins: "wait <- some x; kev <- none" (R232). -/
def State.beginWait (s : State) (x : RegIdx) : State :=
  { s with wait := some x, kev := none }

/-- The wait ends: "wait <- none; kev <- none" (R108). -/
def State.endWait (s : State) : State :=
  { s with wait := none, kev := none }

/-- The free draw of this RND (R114, log 1). -/
def State.randomByte (s : State) : Byte :=
  Config.rndDraw s.draws

/-- The next RND has a draw of its own (R114, log 1). -/
def State.countDraw (s : State) : State :=
  { s with draws := s.draws + 1 }

/-! ### Halt and fault entry (40_engine.md R101, R102; 60_exceptions.md R251, R254) -/

/-- The numeric code of a fault kind (R251). -/
def FaultKind.code : FaultKind → Nat
  | .unknownOpcode => 1
  | .stackOverflow => 2
  | .memoryBoundsViolation => 3

/-- status <- v. -/
def State.setStatus (s : State) (v : Status) : State :=
  { s with status := v }

/-- The halt of a step past the end of memory: "sets status to Halted, writes nothing else" (R102). -/
def State.halt (s : State) : State :=
  s.setStatus .halted

/-- The address of the instruction that is executing: pc was advanced by 2 before dispatch (R103). -/
def State.instrAddr (s : State) : Word :=
  s.pc - 2#16

/-- Fault entry (R254), from a state in which the executing instruction has written nothing yet: the advance of pc is undone, so pc = a, and
status <- Faulted(kind, a, w). A next state: the engine stays readable, and every later STEP gives the same outcome (R110, log 14). -/
def State.enterFault (s : State) (kind : FaultKind) (w : Word) : State :=
  (s.setPc s.instrAddr).setStatus (.faulted kind s.instrAddr w)

end Sys2Proof.Machine
end

