-- ==== Sys2Proof/Machine/Operands.lean ====
section
/-! DEFINITION. The operand forms of the instructions (30_encoding.md R72, R74, R75; 43_index_memory.md R199): immediates, the I-relative
range, glyph addresses, key numbers, decimal digits, screen coordinates. -/

namespace Sys2Proof.Machine

/-- zext_16 of a 12-bit address operand (R14, R74). -/
def zextAddr (nnn : Addr) : Word :=
  nnn.setWidth 16

/-- zext_16 of a byte (R14). -/
def zextByte (b : Byte) : Word :=
  b.setWidth 16

/-- The I-relative range of n bytes, the only data addressing mode: its bytes, or none when it passes the end of memory (R55, R199). -/
def State.readAtI (s : State) (n : Nat) : Option (List Byte) :=
  Memory.readRange s.mem s.I.toNat n

/-- Store bytes at I, I+1, ...: the new memory, or none when the range passes the end of memory (R55, R199). -/
def State.writeAtI (s : State) (bs : List Byte) : Option Memory :=
  Memory.writeRange s.mem s.I.toNat bs

/-- The address of the glyph of a digit, by the low nibble of v: FONT_BASE + 5 * (v & 0x0F) (R38, R192; log 6). -/
def glyphAddr (fontBase : Nat) (v : Byte) : Word :=
  BitVec.ofNat 16 (fontBase + 5 * (v &&& 0x0F#8).toNat)

/-- "pressed(v) = (v <= 0x0F) and key[v] = 1" (R233). -/
def State.pressed (s : State) (v : Byte) : Bool :=
  if h : v.toNat < 16 then s.key[v.toNat] else false

/-- A key number as a register value, 0x00 to 0x0F (R108). -/
def keyByte (k : KeyIdx) : Byte :=
  k.setWidth 8

/-- The three decimal digits of a byte, hundreds first (R196). -/
def decimalDigits (v : Byte) : List Byte :=
  [BitVec.ofNat 8 (v.toNat / 100), BitVec.ofNat 8 (v.toNat / 10 % 10), BitVec.ofNat 8 (v.toNat % 10)]

/-- The start column of a sprite: V[x] mod 64 (R212). -/
def startColumn (v : Byte) : Nat :=
  v.toNat % 64

/-- The start row of a sprite: V[y] mod 32 (R212). -/
def startRow (v : Byte) : Nat :=
  v.toNat % 32

end Sys2Proof.Machine
end

