-- ==== Sys2Proof/Machine/Flags.lean ====
section
/-! DEFINITION. The values VF takes as a flag (10_state.md R22, R23) and the order in which a result and its flag are written (40_engine.md R109). -/

namespace Sys2Proof.Machine

/-- A flag as the register value 1 or 0 (R23). -/
def flagByte (c : Bool) : Byte :=
  if c then 0x01#8 else 0x00#8

/-- Carry out of bit 7: the exact sum exceeds 0xFF (R168). -/
def carryFlag (a b : Byte) : Bool :=
  decide (0xFF < a.toNat + b.toNat)

/-- No borrow in a - b: a >= b before the subtraction (R169, R171). -/
def noBorrowFlag (a b : Byte) : Bool :=
  decide (b.toNat ≤ a.toNat)

/-- The low bit before a right shift (R170). -/
def lowBitFlag (a : Byte) : Bool :=
  a.getLsbD 0

/-- The high bit before a left shift (R172). -/
def highBitFlag (a : Byte) : Bool :=
  a.getLsbD 7

/-- The result is written first and the flag last, so VF as the destination ends holding the flag (R109; log 10). -/
def State.setRegAndFlag (s : State) (x : RegIdx) (result : Byte) (flag : Bool) : State :=
  (s.setReg x result).setReg vF (flagByte flag)

end Sys2Proof.Machine
end

