-- ==== Sys2Proof/Machine/Control.lean ====
section
/-! DEFINITION. The meanings of 41_control.md: return, the ignored call, jumps, call, and the skips on registers. In each, pc = a + 2 on entry (R103). -/

namespace Sys2Proof.Machine

/-- RET (R140): pop pc; on an empty stack a no-op, so pc stays a + 2 (log 22). -/
def execRet (s : State) : Host.Outcome State Fault Refusal :=
  match s.pop with
  | none => .next s
  | some (target, t) => .next (t.setPc target)

/-- SYS addr (R141): ignored. -/
def execSys (_nnn : Addr) (s : State) : Host.Outcome State Fault Refusal :=
  .next s

/-- JP addr (R142). -/
def execJp (nnn : Addr) (s : State) : Host.Outcome State Fault Refusal :=
  .next (s.setPc (zextAddr nnn))

/-- CALL addr (R143): push pc, then jump; StackOverflow with sixteen entries in use. -/
def execCall (nnn : Addr) (s : State) : Host.Outcome State Fault Refusal :=
  match s.push s.pc with
  | none => .next (s.enterFault .stackOverflow (encode (.call nnn)))
  | some t => .next (t.setPc (zextAddr nnn))

/-- SE Vx, byte (R144). -/
def execSeImm (x : RegIdx) (kk : Byte) (s : State) : Host.Outcome State Fault Refusal :=
  .next (s.skipIf (s.reg x == kk))

/-- SNE Vx, byte (R145). -/
def execSneImm (x : RegIdx) (kk : Byte) (s : State) : Host.Outcome State Fault Refusal :=
  .next (s.skipIf (s.reg x != kk))

/-- SE Vx, Vy (R146). -/
def execSeReg (x y : RegIdx) (s : State) : Host.Outcome State Fault Refusal :=
  .next (s.skipIf (s.reg x == s.reg y))

/-- SNE Vx, Vy (R147). -/
def execSneReg (x y : RegIdx) (s : State) : Host.Outcome State Fault Refusal :=
  .next (s.skipIf (s.reg x != s.reg y))

/-- JP V0, addr (R150): the 16-bit sum, not reduced modulo 4096 (log 13). -/
def execJpV0 (nnn : Addr) (s : State) : Host.Outcome State Fault Refusal :=
  .next (s.setPc (zextAddr nnn + zextByte (s.reg 0x0#4)))

end Sys2Proof.Machine
end

