-- ==== Sys2Proof/Machine/Display.lean ====
section
/-! DEFINITION. The meanings of 44_display.md: clear-screen and the sprite compositor. -/

namespace Sys2Proof.Machine

/-- Where a sprite pixel falls: at its own coordinates when they are on the display; past the right or bottom edge nowhere under clip, at
the coordinates modulo 64 and 32 under wrap (R212, R214). -/
def place (edge : SpriteEdge) (px py : Nat) : Option (Fin 64 × Fin 32) :=
  if h : px < 64 ∧ py < 32 then
    some (⟨px, h.1⟩, ⟨py, h.2⟩)
  else
    match edge with
    | .clip => none
    | .wrap => some (⟨px % 64, Nat.mod_lt _ (by decide)⟩, ⟨py % 32, Nat.mod_lt _ (by decide)⟩)

/-- Toggle one sprite pixel; the flag collects whether a pixel that was 1 has been toggled (R212, R213). -/
def drawPixel (edge : SpriteEdge) (px py : Nat) (acc : Display × Bool) : Display × Bool :=
  match place edge px py with
  | none => acc
  | some (x, y) => (Display.flip acc.1 x y, acc.2 || Display.pixel acc.1 x y)

/-- The pixels of columns j, j+1, ... of a sprite row, for the column offsets given: bit 7 - j of the row's byte is the pixel of offset j (R211; log 7). -/
def drawColumns (edge : SpriteEdge) (x0 py : Nat) (b : Byte) : List Nat → Display × Bool → Display × Bool
  | [], acc => acc
  | j :: js, acc =>
    drawColumns edge x0 py b js (if b.getLsbD (7 - j) then drawPixel edge (x0 + j) py acc else acc)

/-- One sprite row: eight columns, the leftmost first (R212). -/
def drawRow (edge : SpriteEdge) (x0 py : Nat) (b : Byte) (acc : Display × Bool) : Display × Bool :=
  drawColumns edge x0 py b [0, 1, 2, 3, 4, 5, 6, 7] acc

/-- The rows of a sprite, one byte a row, downwards from row py (R211, R212). -/
def drawRows (edge : SpriteEdge) (x0 : Nat) : Nat → List Byte → Display × Bool → Display × Bool
  | _, [], acc => acc
  | py, b :: bs, acc => drawRows edge x0 (py + 1) bs (drawRow edge x0 py b acc)

/-- The sprite compositor on a display: the sprite's bytes drawn from column x0 and row y0; the new display and the collision flag (R212, R213). -/
def drawSprite (edge : SpriteEdge) (x0 y0 : Nat) (sprite : List Byte) (d : Display) : Display × Bool :=
  drawRows edge x0 y0 sprite (d, false)

/-- DRW under an edge policy: the whole sprite is read before a pixel changes; VF, written last, is the collision flag; MemoryBoundsViolation
when the sprite passes the end of memory (R55, R212). -/
def drwWith (edge : SpriteEdge) (x y : RegIdx) (n : BitVec 4) (s : State) : State :=
  match s.readAtI n.toNat with
  | none => s.enterFault .memoryBoundsViolation (encode (.drw x y n))
  | some sprite =>
    let drawn := drawSprite edge (startColumn (s.reg x)) (startRow (s.reg y)) sprite s.disp
    (s.setDisp drawn.1).setReg vF (flagByte drawn.2)

/-- CLS (R210). -/
def execCls (s : State) : Host.Outcome State Fault Refusal :=
  .next (s.setDisp Display.blank)

/-- DRW Vx, Vy, n (R212) under this hardware's edge policy (R214; log 4). -/
def execDrw (x y : RegIdx) (n : BitVec 4) (s : State) : Host.Outcome State Fault Refusal :=
  .next (drwWith Param.spriteEdge x y n s)

end Sys2Proof.Machine
end

