-- ==== Sys2Proof/Machine/Index.lean ====
section
/-! DEFINITION. The meanings of 43_index_memory.md: setting I, and the loads and stores through it. Every range is checked whole before a
byte moves (R55), and no access changes I (R199; log 16). -/

namespace Sys2Proof.Machine

/-- LD I, addr (R190). -/
def execLdI (nnn : Addr) (s : State) : Host.Outcome State Fault Refusal :=
  .next (s.setI (zextAddr nnn))

/-- ADD I, Vx (R191): masked to 12 bits, VF unchanged (log 9). -/
def execAddIVx (x : RegIdx) (s : State) : Host.Outcome State Fault Refusal :=
  .next (s.setI (s.I + zextByte (s.reg x)))

/-- LD F under a font address (R192). -/
def ldFWith (fontBase : Nat) (x : RegIdx) (s : State) : State :=
  s.setI (glyphAddr fontBase (s.reg x))

/-- LD F, Vx (R192) under this hardware's font address (log 2). -/
def execLdFVx (x : RegIdx) (s : State) : Host.Outcome State Fault Refusal :=
  .next (ldFWith Param.fontBase x s)

/-- LD B, Vx (R196): the decimal digits of Vx at I, I+1, I+2. -/
def execLdBVx (x : RegIdx) (s : State) : Host.Outcome State Fault Refusal :=
  match s.writeAtI (decimalDigits (s.reg x)) with
  | none => .next (s.enterFault .memoryBoundsViolation (encode (.ldBVx x)))
  | some m => .next (s.setMem m)

/-- LD [I], Vx (R197): store V0 to Vx at I. -/
def execLdMemVx (x : RegIdx) (s : State) : Host.Outcome State Fault Refusal :=
  match s.writeAtI (s.regsTo x) with
  | none => .next (s.enterFault .memoryBoundsViolation (encode (.ldMemVx x)))
  | some m => .next (s.setMem m)

/-- LD Vx, [I] (R198): load V0 to Vx from I. -/
def execLdVxMem (x : RegIdx) (s : State) : Host.Outcome State Fault Refusal :=
  match s.readAtI (x.toNat + 1) with
  | none => .next (s.enterFault .memoryBoundsViolation (encode (.ldVxMem x)))
  | some bytes => .next (s.loadRegs 0 bytes)

end Sys2Proof.Machine
end

