-- ==== Sys2Proof/Machine/KeysTimers.lean ====
section
/-! DEFINITION. The meanings of 45_keys_timers.md: key tests, the key wait, the timer transfers. -/

namespace Sys2Proof.Machine

/-- SKP Vx (R230). -/
def execSkp (x : RegIdx) (s : State) : Host.Outcome State Fault Refusal :=
  .next (s.skipIf (s.pressed (s.reg x)))

/-- SKNP Vx (R231). -/
def execSknp (x : RegIdx) (s : State) : Host.Outcome State Fault Refusal :=
  .next (s.skipIf (!s.pressed (s.reg x)))

/-- LD Vx, K (R232): the wait begins; the steps that follow run it (R108; log 19). -/
def execLdVxK (x : RegIdx) (s : State) : Host.Outcome State Fault Refusal :=
  .next (s.beginWait x)

/-- LD Vx, DT (R234). -/
def execLdVxDT (x : RegIdx) (s : State) : Host.Outcome State Fault Refusal :=
  .next (s.setReg x s.DT)

/-- LD DT, Vx (R235). -/
def execLdDTVx (x : RegIdx) (s : State) : Host.Outcome State Fault Refusal :=
  .next (s.setDT (s.reg x))

/-- LD ST, Vx (R236). -/
def execLdSTVx (x : RegIdx) (s : State) : Host.Outcome State Fault Refusal :=
  .next (s.setST (s.reg x))

end Sys2Proof.Machine
end

