-- ==== Sys2Proof/Machine/Engine.lean ====
section
/-! DEFINITION. The parts of the STEP transaction around the execution of an instruction (40_engine.md R101-R110): the fetch, the step of a
pending key wait, the unrecognised word, and the placing of a word where the next fetch reads it. -/

namespace Sys2Proof.Machine

/-- The word at pc, big-endian; none when the byte at pc or at pc + 1 is outside memory, pc > 0x0FFE (R53, R102; log 12). -/
def State.fetchWord (s : State) : Option Word :=
  match Memory.readRange s.mem s.pc.toNat 2 with
  | some [hi, lo] => some (wordOfBytes hi lo)
  | _ => none

/-- The step of a pending key wait with destination x: it ends with the latched key in V[x], or changes nothing (R108). -/
def State.keyWaitStep (s : State) (x : RegIdx) : State :=
  match s.kev with
  | some k => (s.setReg x (keyByte k)).endWait
  | none => s

/-- An unrecognised word, from the state after the advance: fatal raises UnknownOpcode, skip writes nothing beyond the advance (R107; log 5). -/
def State.unknownOpcode (s : State) (policy : UnknownOpcodePolicy) (w : Word) : State :=
  match policy with
  | .fatal => s.enterFault .unknownOpcode w
  | .skip => s

/-- One STEP (R101), over the execution of an instruction and the policy for unrecognised words. A halted or faulted engine stays as it is
(R110); a pending key wait comes before the fetch (R108); a pc past the end of memory halts (R102); then the word at pc is decoded and executed
with pc advanced (R103), or rejected (R107): the order of R255. The outcome the host sees, Continue, Halt or Fault, is the status of the state
it gives (R104). -/
def stepBy (run : Instr → State → Host.Outcome State Fault Refusal) (policy : UnknownOpcodePolicy) (s : State) :
    Host.Outcome State Fault Refusal :=
  match s.status with
  | .halted => .next s
  | .faulted _ _ _ => .next s
  | .running =>
    match s.wait with
    | some x => .next (s.keyWaitStep x)
    | none =>
      match s.fetchWord with
      | none => .next s.halt
      | some w =>
        match decodeWord w with
        | .ok i => run i s.advance
        | .error _ => .next (s.advance.unknownOpcode policy w)

/-- A state whose next step fetches at pc: running, no key wait, pc where two bytes can be fetched; the entry point where pc is not (R101, R281). -/
def State.readyToFetch (s : State) : State :=
  { s with
    status := .running
    wait := none
    pc := if s.pc.toNat + 2 ≤ Config.memSize then s.pc else BitVec.ofNat 16 Config.programBase }

/-- The word stored at pc, the most significant byte first (R53). -/
def State.placeWord (s : State) (w : Word) : State :=
  s.setMem (Memory.writeBytes s.mem s.pc.toNat (bytesOfWord w))

end Sys2Proof.Machine
end

