-- ==== Sys2Proof/Machine/Step.lean ====
section
/-! DEFINITION. The STEP transaction (40_engine.md R101) of this hardware, and the placing of an instruction where the next step fetches it. -/

namespace Sys2Proof.Machine

/-- One STEP of this hardware (R101): stepBy, over the dispatcher and the value of UNKNOWN_OPCODE_POLICY. -/
def step (s : State) : Host.Outcome State Fault Refusal :=
  stepBy exec Param.unknownOpcodePolicy s

/-- s with an instruction of the opcode table placed where the next step fetches it, and made ready to fetch. It stands for a program loaded
from outside (R283; log 31). -/
def State.withFetchWord (s : State) (nbits w : Nat) : State :=
  s.readyToFetch.placeWord (tableWord nbits w)

end Sys2Proof.Machine
end

