-- ==== Sys2Proof/Machine/Transactions.lean ====
section
/-! DEFINITION. The host's transactions (40_engine.md R100): RESET, LOAD, STEP, TICK, SET_KEY and the reads, each atomic, in the order the host
chooses (20_memory.md R60). -/

namespace Sys2Proof.Machine

/-! ### TICK and SET_KEY (60_exceptions.md R262, R263) -/

/-- "decrements ... by 1 if nonzero" (R262). -/
def countDown (v : Byte) : Byte :=
  if v = 0x00#8 then v else v - 1#8

/-- TICK: both timers, in every status (R262; log 24). -/
def State.tick (s : State) : State :=
  (s.setDT (countDown s.DT)).setST (countDown s.ST)

/-- key[k] = 1 (R33). -/
def State.keyDown (s : State) (k : KeyIdx) : Bool :=
  s.key[k.toNat]'k.isLt

/-- key[k] <- p (R263). -/
def State.writeKey (s : State) (k : KeyIdx) (p : Bool) : State :=
  { s with key := s.key.set k.toNat p k.isLt }

/-- "key[j] = 0 for every j" (R263). -/
def State.noKeyDown (s : State) : Bool :=
  s.key.toList.all fun p => !p

/-- kev <- some k (R263). -/
def State.latchKey (s : State) (k : KeyIdx) : State :=
  { s with kev := some k }

/-- SET_KEY of an existing key: it writes the key state, and latches the press that ends a key wait, the change from none pressed to some
pressed (R263; log 19). -/
def State.setKeyIdx (s : State) (k : KeyIdx) (p : Bool) : State :=
  if p && s.noKeyDown && s.wait.isSome && s.kev.isNone then (s.writeKey k p).latchKey k else s.writeKey k p

/-- SET_KEY: an index above 0x0F names no key and is ignored (R263; log 20). -/
def State.setKey (s : State) (k : Nat) (p : Bool) : State :=
  if k ≤ 0x0F then s.setKeyIdx (BitVec.ofNat 4 k) p else s

/-! ### LOAD (70_reset_and_hazards.md R283) -/

/-- Why a LOAD fails (R252, R283). -/
inductive LoadError where
  | programTooLarge
  | oddLength
deriving DecidableEq, Repr

/-- LOAD: the image copied verbatim to 0x200, or an error with nothing written; the size is checked first (R283; log 23). -/
def State.load (s : State) (image : List Byte) : Except LoadError State :=
  if Config.maxProgram < image.length then .error .programTooLarge
  else if image.length % 2 = 1 then .error .oddLength
  else .ok (s.setMem (Memory.writeBytes s.mem Config.programBase image))

/-! ### The reads (60_exceptions.md R265, R266, R267) -/

/-- The columns of one display row as bits, column x at bit x. -/
def Display.rowBits (d : Display) (y : Fin 32) : BitVec 64 :=
  (List.finRange 64).foldl (fun acc x => if d.pixel x y then acc ||| (1#64 <<< x.val) else acc) 0#64

/-- The display flattened to one bit string: "pixel (x, y) is bit number y * 64 + x" (R265; log 28). -/
def Display.flatten (d : Display) : BitVec 2048 :=
  (List.finRange 32).foldl (fun acc y => acc ||| ((d.rowBits y).setWidth 2048 <<< (y.val * 64))) 0#2048

/-- The tone output is active exactly while ST is not 0 (R266). -/
def State.toneActive (s : State) : Bool :=
  s.ST != 0x00#8

/-- The outcome of a STEP (R104). -/
inductive StepResult where
  | continued
  | halted
  | fault (kind : FaultKind) (addr : Word) (word : Word)
deriving DecidableEq, Repr

/-- "Continue (... status is Running), Halt (status is Halted), or Fault(kind, addr, word) (status is Faulted)" (R104). -/
def Status.stepResult : Status → StepResult
  | .running => .continued
  | .halted => .halted
  | .faulted k a w => .fault k a w

/-! ### The transactions as one machine (40_engine.md R100, 70_reset_and_hazards.md R282-R285) -/

/-- The transactions of R100. STEP's input rnd is the free draw of the state (R114, log 1). -/
inductive Transaction where
  | reset
  | load (image : List Byte)
  | step
  | tick
  | setKey (k : Nat) (pressed : Bool)
  | getDisplay
  | getSoundTimer
  | getDelayTimer
  | getStatus
deriving DecidableEq, Repr

/-- What a transaction returns (R100). -/
inductive Reply where
  | done
  | loadFailed (e : LoadError)
  | stepped (r : StepResult)
  | display (d : Display)
  | timer (v : Byte)
  | status (v : Status)
deriving DecidableEq, Repr

/-- Where the host stands in the boot order (R284, R285; log 23, log 35). Only LOAD, and STEP after a failed LOAD, are ever refused by it: what
STEP, TICK and SET_KEY do between RESET and LOAD the spec does not say, and the model executes them (DESIGN CHOICE, log 42). -/
inductive Phase where
  /-- RESET was issued, and no LOAD and no STEP since. -/
  | fresh
  /-- A LOAD answered Ok or a STEP was issued. -/
  | begun
  /-- A LOAD answered a LoadError: "run never begins" (R283). -/
  | loadFailed
deriving DecidableEq, Repr

/-- An engine and where its host stands in the boot order. -/
structure Block where
  state : State
  phase : Phase
deriving DecidableEq, Repr

/-- The state RESET creates, with the random draws going on where they were: a restarted run need not draw the same bytes again (R280, R282; log 35). -/
def State.restart (s : State) : State :=
  { State.reset with draws := s.draws }

/-- LOAD in its place: once, before the first STEP, on the state that RESET gives, the argument; otherwise refused (R284; log 23). The states are
compared by value, so that a LOAD is taken after transactions that left the reset state as it was, a TICK of two zero timers or a key pressed
and released (DESIGN CHOICE, log 41). -/
def Block.loadOn (b : Block) (restarted : State) (image : List Byte) : Host.Outcome (Block × Reply) Fault Refusal :=
  if b.phase = .fresh ∧ b.state = restarted then
    match b.state.load image with
    | .ok s => .next (⟨s, .begun⟩, .done)
    | .error e => .next (⟨b.state, .loadFailed⟩, .loadFailed e)
  else .refused .loadOutOfPlace

/-- STEP, over the step of the engine, with the outcome the host sees (R104); after a failed LOAD the run never begins (R283; log 23). Before any
LOAD it is executed (DESIGN CHOICE, log 42). -/
def Block.stepOnceBy (b : Block) (step : State → Host.Outcome State Fault Refusal) : Host.Outcome (Block × Reply) Fault Refusal :=
  if b.phase = .loadFailed then .refused .runNeverBegan
  else
    match step b.state with
    | .next s => .next (⟨s, .begun⟩, .stepped s.status.stepResult)
    | .fault f => .fault f
    | .refused r => .refused r

/-- LOAD of this hardware (R283, R284; log 23, log 41). -/
def Block.loadProgram (b : Block) (image : List Byte) : Host.Outcome (Block × Reply) Fault Refusal :=
  b.loadOn b.state.restart image

/-- STEP of this hardware (R101, R104; log 23, log 42). -/
def Block.stepOnce (b : Block) : Host.Outcome (Block × Reply) Fault Refusal :=
  b.stepOnceBy step

/-- One transaction (R100). TICK, SET_KEY and the reads leave the phase as it is (log 35), and are executed in every phase (log 42). -/
def Block.transact (b : Block) : Transaction → Host.Outcome (Block × Reply) Fault Refusal
  | .reset => .next (⟨b.state.restart, .fresh⟩, .done)
  | .load image => b.loadProgram image
  | .step => b.stepOnce
  | .tick => .next (⟨b.state.tick, b.phase⟩, .done)
  | .setKey k p => .next (⟨b.state.setKey k p, b.phase⟩, .done)
  | .getDisplay => .next (b, .display b.state.disp)
  | .getSoundTimer => .next (b, .timer b.state.ST)
  | .getDelayTimer => .next (b, .timer b.state.DT)
  | .getStatus => .next (b, .status b.state.status)

end Sys2Proof.Machine
end

