-- ==== Sys2Proof/Machine/Parameters.lean ====
section
/-! DEFINITION. The machine as a function of the parameters of 00_scope.md R11, "each a named argument of the model": the reset state, the
execution of an instruction, the step and the transactions under any values. The machine of the other files is this one under Param.values; RND,
the parameter left, is the free value Config.rndDraw. -/

namespace Sys2Proof.Machine

/-- The reset state under parameters: FONT_BASE and FONT_GLYPHS say what memory holds (R38, R280). -/
def State.resetWith (p : Params) : State :=
  State.reset.setMem (Memory.withFont p.fontBase p.fontGlyphs)

/-- The execution of an instruction under parameters: FONT_BASE is read by LD F (R192) and SPRITE_EDGE by DRW (R214), no other instruction reads one. -/
def execWith (p : Params) (i : Instr) (s : State) : Host.Outcome State Fault Refusal :=
  match i with
  | .ldFVx x => .next (ldFWith p.fontBase x s)
  | .drw x y n => .next (drwWith p.spriteEdge x y n s)
  | .cls | .ret | .sys _ | .jp _ | .call _ | .seImm _ _ | .sneImm _ _ | .seReg _ _ | .ldImm _ _ | .addImm _ _ => exec i s
  | .ldReg _ _ | .orReg _ _ | .andReg _ _ | .xorReg _ _ | .addReg _ _ | .subReg _ _ | .shr _ _ | .subnReg _ _ | .shl _ _ => exec i s
  | .sneReg _ _ | .ldI _ | .jpV0 _ | .rnd _ _ | .skp _ | .sknp _ | .ldVxDT _ | .ldVxK _ | .ldDTVx _ | .ldSTVx _ => exec i s
  | .addIVx _ | .ldBVx _ | .ldMemVx _ | .ldVxMem _ => exec i s

/-- One STEP under parameters: UNKNOWN_OPCODE_POLICY says what an unrecognised word does (R101, R107). -/
def stepWith (p : Params) (s : State) : Host.Outcome State Fault Refusal :=
  stepBy (execWith p) p.unknownOpcodePolicy s

/-- The state RESET creates under parameters (R280; log 35). -/
def State.restartWith (p : Params) (s : State) : State :=
  { State.resetWith p with draws := s.draws }

/-- One transaction under parameters (R100): RESET, LOAD and STEP depend on them. -/
def Block.transactWith (p : Params) (b : Block) (tx : Transaction) : Host.Outcome (Block × Reply) Fault Refusal :=
  match tx with
  | .reset => .next (⟨b.state.restartWith p, .fresh⟩, .done)
  | .load image => b.loadOn (b.state.restartWith p) image
  | .step => b.stepOnceBy (stepWith p)
  | .tick | .setKey _ _ | .getDisplay | .getSoundTimer | .getDelayTimer | .getStatus => b.transact tx

end Sys2Proof.Machine
end

