-- ==== Sys2Proof/Safety.lean ====
section
/-! DEFINITION. What counts as a safe state: the invariant that the spec states about every state a run reaches (10_state.md R24, R27, R34-R36;
20_memory.md R50; 60_exceptions.md R254); and the terms the statements use: frames, the registers an instruction names, sprite pixels. -/

namespace Sys2Proof.Machine

/-- A fault record is one the engine can have made: the word still stands at the recorded address, which is where pc stands, and the kind is
the one that the word and the state give (R251, R254). -/
def State.faultRecorded (s : State) (kind : FaultKind) (addr word : Word) : Prop :=
  s.pc = addr ∧ s.fetchWord = some word ∧
    match kind with
    | .unknownOpcode => decodeWord word = .error (.unknownOpcode word)
    | .stackOverflow => s.sp.val = 16 ∧ ∃ nnn, decodeWord word = .ok (.call nnn)
    | .memoryBoundsViolation =>
      (∃ x, decodeWord word = .ok (.ldBVx x) ∧ Config.memSize < s.I.toNat + 3) ∨
      (∃ x, decodeWord word = .ok (.ldMemVx x) ∧ Config.memSize < s.I.toNat + x.toNat + 1) ∨
      (∃ x, decodeWord word = .ok (.ldVxMem x) ∧ Config.memSize < s.I.toNat + x.toNat + 1) ∨
      (∃ x y n, decodeWord word = .ok (.drw x y n) ∧ Config.memSize < s.I.toNat + n.toNat)

/-- The invariant of every state a run reaches. -/
structure State.Inv (s : State) : Prop where
  /-- Memory is in its canonical form, inside 4096 bytes (R50, log 32). -/
  mem_wf : Memory.wf s.mem
  /-- "I <= 0x0FFF always holds" (R24). -/
  index_le : s.I.toNat ≤ 0x0FFF
  /-- "The values pc can take are 0x0000-0x10FE" (R27). -/
  pc_le : s.pc.toNat ≤ 0x10FE
  /-- "a popped return address is a pushed pc, at most 0x1000" (R27). -/
  stack_le : ∀ a ∈ s.stack.toList, a.toNat ≤ 0x1000
  /-- A key is latched only while a wait is pending (R35). -/
  kev_waits : s.kev.isSome → s.wait.isSome
  /-- A wait is pending only while running: a step in Halted or Faulted executes nothing (R34, R36). -/
  wait_runs : s.wait.isSome → s.status = .running
  /-- Halted: "a step found pc past the end of memory" (R36, R102). -/
  halted_pc : s.status = .halted → 0x0FFE < s.pc.toNat
  /-- Faulted: the record is one a step made (R36, R254). -/
  fault_record : ∀ k a w, s.status = .faulted k a w → s.faultRecorded k a w

/-! ### Frames -/

/-- From s to t every byte of memory reads as before. -/
def State.sameBytes (s t : State) : Prop :=
  ∀ a, Memory.byteAt t.mem a = Memory.byteAt s.mem a

/-- From s to t nothing changed but general registers among ds. -/
def State.onlyRegs (s t : State) (ds : List RegIdx) : Prop :=
  t = { s with V := t.V } ∧ (∀ j, j ∉ ds → t.reg j = s.reg j) ∧ s.sameBytes t

/-- From s to t nothing changed but pc. -/
def State.onlyPc (s t : State) : Prop :=
  t = { s with pc := t.pc } ∧ (∀ j, t.reg j = s.reg j) ∧ s.sameBytes t

/-- From s to t nothing changed but I. -/
def State.onlyI (s t : State) : Prop :=
  t = { s with I := t.I } ∧ (∀ j, t.reg j = s.reg j) ∧ s.sameBytes t

/-- From s to t nothing changed but the n bytes of memory from address a on. -/
def State.onlyBytes (s t : State) (a n : Nat) : Prop :=
  t = { s with mem := t.mem } ∧ (∀ j, t.reg j = s.reg j) ∧
    ∀ c, c < a ∨ a + n ≤ c → Memory.byteAt t.mem c = Memory.byteAt s.mem c

/-- t is s faulted with a kind: an instruction whose pc is a + 2 wrote nothing, its advance of pc undone (R254). -/
def State.faultedFrom (s t : State) (kind : FaultKind) (word : Word) : Prop :=
  t = { s with pc := s.pc - 2#16, status := .faulted kind (s.pc - 2#16) word }

/-! ### Transactions -/

/-- The answer to a LOAD that is taken on block b: Ok and the state that State.load gives for an even image of at most 3584 bytes, else the error of
State.load with the state as it was (R283). -/
def Block.answersLoad (b : Block) (image : List Byte) (answer : Host.Outcome (Block × Reply) Fault Refusal) : Prop :=
  (image.length ≤ 3584 → image.length % 2 = 0 → ∃ t, b.state.load image = .ok t ∧ answer = .next (⟨t, .begun⟩, .done)) ∧
  (3584 < image.length → b.state.load image = .error .programTooLarge ∧
    answer = .next (⟨b.state, .loadFailed⟩, .loadFailed .programTooLarge)) ∧
  (image.length ≤ 3584 → image.length % 2 = 1 → b.state.load image = .error .oddLength ∧
    answer = .next (⟨b.state, .loadFailed⟩, .loadFailed .oddLength))

/-! ### What an instruction names (10_state.md R21, R22) -/

/-- The registers an instruction names as destinations (R22). -/
def destinations : Instr → List RegIdx
  | .ldImm x _ | .addImm x _ | .rnd x _ => [x]
  | .ldReg x _ | .orReg x _ | .andReg x _ | .xorReg x _ => [x]
  | .addReg x _ | .subReg x _ | .shr x _ | .subnReg x _ | .shl x _ => [x]
  | .ldVxDT x => [x]
  | .ldVxMem x => (List.range (x.toNat + 1)).map fun k => BitVec.ofNat 4 k
  | .cls | .ret | .sys _ | .jp _ | .call _ | .jpV0 _ | .ldI _ => []
  | .seImm _ _ | .sneImm _ _ | .seReg _ _ | .sneReg _ _ | .skp _ | .sknp _ => []
  | .drw _ _ _ | .ldVxK _ | .ldDTVx _ | .ldSTVx _ | .addIVx _ | .ldFVx _ | .ldBVx _ | .ldMemVx _ => []

/-- "The handlers that write VF as a flag are exactly ADD Vx, Vy (8xy4), SUB (8xy5), SHR (8xy6), SUBN (8xy7), SHL (8xyE) and DRW (Dxyn)" (R22). -/
def writesFlag : Instr → Bool
  | .addReg _ _ | .subReg _ _ | .shr _ _ | .subnReg _ _ | .shl _ _ | .drw _ _ _ => true
  | .cls | .ret | .sys _ | .jp _ | .call _ | .seImm _ _ | .sneImm _ _ | .seReg _ _ | .ldImm _ _ | .addImm _ _ => false
  | .ldReg _ _ | .orReg _ _ | .andReg _ _ | .xorReg _ _ | .sneReg _ _ | .ldI _ | .jpV0 _ | .rnd _ _ => false
  | .skp _ | .sknp _ | .ldVxDT _ | .ldVxK _ | .ldDTVx _ | .ldSTVx _ | .addIVx _ | .ldFVx _ | .ldBVx _ => false
  | .ldMemVx _ | .ldVxMem _ => false

/-! ### Sprite pixels (44_display.md R211-R214), said without the compositor's loops -/

/-- The sprite of n rows at I, drawn from column x0 and row y0, toggles the pixel (px, py): a set bit of some row falls there (R211, R212),
past the edges nowhere under clip and modulo the display under wrap (R214). -/
def State.spriteToggles (s : State) (edge : SpriteEdge) (x0 y0 n : Nat) (px : Fin 64) (py : Fin 32) : Prop :=
  ∃ r j, r < n ∧ j < 8 ∧ (Memory.byteAt s.mem (s.I.toNat + r)).getLsbD (7 - j) = true ∧
    match edge with
    | .clip => x0 + j = px.val ∧ y0 + r = py.val
    | .wrap => (x0 + j) % 64 = px.val ∧ (y0 + r) % 32 = py.val

/-- The pixel (px, py) of the display (R15, R32). -/
def State.pixel (s : State) (px : Fin 64) (py : Fin 32) : Bool :=
  s.disp.pixel px py

/-- t is s after DRW of n rows with the coordinates in Vx and Vy: the toggled pixels inverted, every other pixel as before; VF 1 exactly when a
pixel that was 1 was toggled; nothing else changed (R212, R213). -/
def State.drewSprite (s t : State) (edge : SpriteEdge) (x y : RegIdx) (n : Nat) : Prop :=
  let toggles := s.spriteToggles edge ((s.reg x).toNat % 64) ((s.reg y).toNat % 32) n
  (∀ px py, toggles px py → t.pixel px py = !s.pixel px py) ∧
  (∀ px py, ¬ toggles px py → t.pixel px py = s.pixel px py) ∧
  ((∃ px py, toggles px py ∧ s.pixel px py = true) → t.reg vF = 0x01#8) ∧
  ((¬ ∃ px py, toggles px py ∧ s.pixel px py = true) → t.reg vF = 0x00#8) ∧
  t = { s with disp := t.disp, V := t.V } ∧ (∀ j, j ≠ vF → t.reg j = s.reg j) ∧ s.sameBytes t

end Sys2Proof.Machine
end

