-- ==== Sys2Proof/Certificates/Slice0/Obligations.lean ====
section
/-! DEFINITION. The statements for the provers. Each docstring names the rules of spec/ it formalises, and where a clause is a decision of the
spec (D<n>) or of the model, the log entry. -/

open Sys2Proof Sys2Proof.Machine

/-! ### Encoding -/

/-- Decode of encode is the instruction, for every well-formed instruction and every operand, as a word and as the two bytes memory holds (R75, R80). -/
def Obligations.DecodeEncodeRoundTrip : Prop :=
  ∀ i : Instr, i.wellFormed = true →
    decodeWord (encode i) = .ok i ∧ ∀ rest, decode (bytesOfWord (encode i) ++ rest) = .ok (i, rest)

/-- Encode of decode is the word, for every word that is an instruction: no bit is dropped, the ignored fields of R85 among them (log 34). -/
def Obligations.EncodeDecodeRoundTrip : Prop :=
  ∀ (w : Word) (i : Instr), decodeWord w = .ok i → encode i = w ∧ i.wellFormed = true

/-- The decoder selects by the opcode map: the operation of a word is that of the first row whose mask and pattern it matches, it is unknown
where none matches, and two rows match one word only for CLS and RET against SYS (R80). -/
def Obligations.OpcodeMapSelectsOperation : Prop :=
  (∀ w : Word, match opcodeMap.find? (fun r => w &&& r.mask == r.pattern) with
    | some r => ∃ i, decodeWord w = .ok i ∧ i.mnemonic = r.mnemonic
    | none => decodeWord w = .error (.unknownOpcode w)) ∧
  ∀ (w : Word) (r q : OpcodeRow), r ∈ opcodeMap → q ∈ opcodeMap → r ≠ q → w &&& r.mask = r.pattern → w &&& q.mask = q.pattern →
    (w = 0x00E0#16 ∨ w = 0x00EE#16) ∧ (r.mnemonic = "SYS_addr" ∨ q.mnemonic = "SYS_addr")

/-- The six fields are fixed masks of the word (R71). -/
def Obligations.FieldsAreFixedMasks : Prop :=
  ∀ w : Word,
    (decodeFields w).raw = w ∧
    ((decodeFields w).cls.toNat = w.toNat / 4096 ∧ (decodeFields w).cls.setWidth 16 = w >>> 12) ∧
    (decodeFields w).addr.setWidth 16 = w &&& 0x0FFF#16 ∧
    (decodeFields w).regX.setWidth 16 = (w >>> 8) &&& 0x000F#16 ∧
    (decodeFields w).regY.setWidth 16 = (w >>> 4) &&& 0x000F#16 ∧
    (decodeFields w).byte.setWidth 16 = w &&& 0x00FF#16 ∧
    (decodeFields w).nibble.setWidth 16 = w &&& 0x000F#16

/-- The unrecognised words are exactly those of the table of R83 (its words; its counts are the spec's own inference and are not stated). -/
def Obligations.UnrecognisedWordsAreRejected : Prop :=
  ∀ w : Word, decodeWord w = .error (.unknownOpcode w) ↔
    (w.toNat / 4096 = 0x5 ∧ w.toNat % 16 ≠ 0) ∨
    (w.toNat / 4096 = 0x8 ∧ w.toNat % 16 ∈ [0x8, 0x9, 0xA, 0xB, 0xC, 0xD, 0xF]) ∨
    (w.toNat / 4096 = 0x9 ∧ w.toNat % 16 ≠ 0) ∨
    (w.toNat / 4096 = 0xE ∧ w.toNat % 256 ∉ [0x9E, 0xA1]) ∨
    (w.toNat / 4096 = 0xF ∧ w.toNat % 256 ∉ [0x07, 0x0A, 0x15, 0x18, 0x1E, 0x29, 0x33, 0x55, 0x65])

/-- A word has a mnemonic, not "UNKNOWN", exactly when the dispatcher does not reject it as an unknown opcode; a word that it executes has the
mnemonic of exactly one row of the opcode map, that of its operation (R91). "UNKNOWN" is the word R91 quotes; that it is the exact text is the
model's choice (log 40). -/
def Obligations.DisassemblerIsSymmetric : Prop :=
  (∀ w : Word, disassemble w ≠ "UNKNOWN" ↔ decodeWord w ≠ .error (.unknownOpcode w)) ∧
  ∀ (w : Word) (i : Instr), decodeWord w = .ok i → disassemble w = i.mnemonic ∧ ∃! r, r ∈ opcodeMap ∧ r.mnemonic = i.mnemonic

/-- Sample words of every family, written out from the spec's encodings (95_test_vectors.md 2.1 to 2.7), decode to what they stand for. -/
def Obligations.SampleWordsDecode : Prop :=
  decodeWord 0x00E0#16 = .ok .cls ∧ decodeWord 0x00EE#16 = .ok .ret ∧ decodeWord 0x00E1#16 = .ok (.sys 0x0E1#12) ∧
  decodeWord 0x2300#16 = .ok (.call 0x300#12) ∧ decodeWord 0x5120#16 = .ok (.seReg 0x1#4 0x2#4) ∧
  decodeWord 0x6A5C#16 = .ok (.ldImm 0xA#4 0x5C#8) ∧ decodeWord 0x80F4#16 = .ok (.addReg 0x0#4 0xF#4) ∧
  decodeWord 0x800E#16 = .ok (.shl 0x0#4 0x0#4) ∧ decodeWord 0xB123#16 = .ok (.jpV0 0x123#12) ∧
  decodeWord 0xD125#16 = .ok (.drw 0x1#4 0x2#4 0x5#4) ∧ decodeWord 0xE19E#16 = .ok (.skp 0x1#4) ∧
  decodeWord 0xF30A#16 = .ok (.ldVxK 0x3#4) ∧ decodeWord 0xFF65#16 = .ok (.ldVxMem 0xF#4) ∧
  decodeWord 0x5121#16 = .error (.unknownOpcode 0x5121#16) ∧ decodeWord 0xFF66#16 = .error (.unknownOpcode 0xFF66#16)

/-! ### The step -/

/-- A running engine with no key wait, whose pc can be fetched from and whose two bytes there decode (the lower address in bits 15-8, R53),
steps to what exec makes of the instruction with pc advanced by 2 (R101-R103). The threshold pc <= 0x0FFE is the spec's decision D12 (log 12). -/
def Obligations.StepRunsDecodedInstruction : Prop :=
  ∀ (s : State) (i : Instr), s.status = .running → s.wait = none → s.pc.toNat ≤ 0x0FFE →
    decodeWord (Memory.byteAt s.mem s.pc.toNat ++ Memory.byteAt s.mem (s.pc.toNat + 1)) = .ok i →
    step s = exec i { s with pc := s.pc + 2#16 }

/-- "every class/sub-key combination has a defined outcome" (R106): every step and every instruction answers a next state, never a stop. That a
fault is such a next state is the model's choice over the spec's decision D14 (log 14, the empty type Fault); that a finished engine steps to
itself is the spec's decision D26 (log 25). -/
def Obligations.EveryStepAnswersNext : Prop :=
  (∀ s : State, ∃ t, step s = .next t) ∧ ∀ (i : Instr) (s : State), ∃ t, exec i s = .next t

/-- A halted or faulted engine is left as it is by every STEP, and the host sees the same outcome again (R110: the spec's decision D26, log 25). -/
def Obligations.FinishedEngineStays : Prop :=
  ∀ s : State, s.status ≠ .running → step s = .next s

/-- A step with pc past the end of memory halts and writes nothing but status (R102; the threshold is the spec's decision D12, log 12). -/
def Obligations.StepPastEndHalts : Prop :=
  ∀ s : State, s.status = .running → s.wait = none → 0x0FFE < s.pc.toNat → step s = .next { s with status := .halted }

/-- The step of a pending key wait fetches nothing: it writes the latched key and ends the wait, or changes nothing (R108: the spec's decision
D20, log 19). It comes before the halt, whatever pc is. -/
def Obligations.KeyWaitStepFetchesNothing : Prop :=
  ∀ (s : State) (x : RegIdx), s.status = .running → s.wait = some x →
    (s.kev = none → step s = .next s) ∧
    ∀ k, s.kev = some k → ∃ t, step s = .next t ∧ (t.reg x).toNat = k.toNat ∧ (∀ j, j ≠ x → t.reg j = s.reg j) ∧
      t = { s with V := t.V, wait := none, kev := none }

/-- An unrecognised word faults with UnknownOpcode under the policy fatal, recording its address and the word, nothing else written; under skip it
writes nothing beyond the advance (R107). So under every policy for the operation and for a step under every parameters (R11), and for the step
of this hardware with its policy. The policy is the spec's decision D16 (log 5), the post-state D14 (log 14), the record D15 (log 15). -/
def Obligations.UnknownOpcodeFollowsPolicy : Prop :=
  ∀ (s : State) (w : Word), s.status = .running → s.wait = none → s.fetchWord = some w → decodeWord w = .error (.unknownOpcode w) →
    (∀ policy, s.advance.unknownOpcode policy w = match policy with
      | .fatal => { s with status := .faulted .unknownOpcode s.pc w }
      | .skip => { s with pc := s.pc + 2#16 }) ∧
    (∀ p : Params, stepWith p s = .next (match p.unknownOpcodePolicy with
      | .fatal => { s with status := .faulted .unknownOpcode s.pc w }
      | .skip => { s with pc := s.pc + 2#16 })) ∧
    step s = .next (match Param.unknownOpcodePolicy with
      | .fatal => { s with status := .faulted .unknownOpcode s.pc w }
      | .skip => { s with pc := s.pc + 2#16 })

/-- Faults are precise: a step that leaves a running engine faulted changed nothing but status, and records pc and the word there (R254: the
spec's decision D14, log 14; D15, log 15). -/
def Obligations.FaultEntryIsPrecise : Prop :=
  ∀ (s t : State) (k : FaultKind) (a w : Word), s.status = .running → step s = .next t → t.status = .faulted k a w →
    a = s.pc ∧ s.fetchWord = some w ∧ t = { s with status := .faulted k a w }

/-- The causes of the faults are exactly those of R251, in the priority of R255: a step without a key wait faults with a kind exactly when the
word at pc and the state give it (under this model's policy fatal, D16, log 5; the record is D15, log 15). -/
def Obligations.FaultCausesAreExact : Prop :=
  ∀ (s t : State) (k : FaultKind) (a w : Word), s.status = .running → s.wait = none → step s = .next t →
    (t.status = .faulted k a w ↔ s.faultRecorded k a w)

/-- Every form that can fault enters its fault where its condition holds, with its own word and nothing written (R143, R196-R198, R212, R254;
the post-state is the spec's decision D14, log 14). -/
def Obligations.FaultingFormsEnterFault : Prop :=
  ∀ s : State,
    (∀ nnn, s.sp.val = 16 → ∃ t, exec (.call nnn) s = .next t ∧ s.faultedFrom t .stackOverflow (0x2#4 ++ nnn)) ∧
    (∀ x, 0x1000 < s.I.toNat + 3 →
      ∃ t, exec (.ldBVx x) s = .next t ∧ s.faultedFrom t .memoryBoundsViolation (0xF#4 ++ x ++ 0x33#8)) ∧
    (∀ x, 0xFFF < s.I.toNat + x.toNat →
      (∃ t, exec (.ldMemVx x) s = .next t ∧ s.faultedFrom t .memoryBoundsViolation (0xF#4 ++ x ++ 0x55#8)) ∧
      ∃ t, exec (.ldVxMem x) s = .next t ∧ s.faultedFrom t .memoryBoundsViolation (0xF#4 ++ x ++ 0x65#8)) ∧
    ∀ x y n, 0x1000 < s.I.toNat + n.toNat →
      ∃ t, exec (.drw x y n) s = .next t ∧ s.faultedFrom t .memoryBoundsViolation (0xD#4 ++ x ++ y ++ n)

/-! ### The invariant -/

/-- Every step keeps the invariant of Safety.lean: memory canonical and inside 4096 bytes, I <= 0x0FFF (R24), pc and the return addresses in
range (R27), a latched key only in a wait (R35), a wait only while running, halted past the end (R102), a fault record true (R254). -/
def Obligations.StepKeepsInvariant : Prop :=
  ∀ s t : State, s.Inv → step s = .next t → t.Inv

/-- The reset state meets the invariant. -/
def Obligations.ResetMeetsInvariant : Prop :=
  State.reset.Inv

/-- Every transaction of the host keeps the invariant: RESET, LOAD, STEP, TICK, SET_KEY and the reads (R100). -/
def Obligations.TransactionsKeepInvariant : Prop :=
  ∀ (b b' : Block) (tx : Transaction) (r : Reply), b.state.Inv → b.transact tx = .next (b', r) → b'.state.Inv

/-! ### Control transfer -/

/-- SYS changes nothing, pc stays a + 2 (R141), and every word of class 0 other than CLS and RET is SYS. -/
def Obligations.SysChangesNothing : Prop :=
  ∀ nnn : Addr, (∀ s : State, exec (.sys nnn) s = .next s) ∧
    (nnn ≠ 0x0E0#12 → nnn ≠ 0x0EE#12 → decodeWord (0x0#4 ++ nnn) = .ok (.sys nnn))

/-- JP loads pc with nnn, odd targets among them (R142). -/
def Obligations.JpLoadsTarget : Prop :=
  ∀ nnn : Addr, decodeWord (0x1#4 ++ nnn) = .ok (.jp nnn) ∧
    ∀ s : State, ∃ t, exec (.jp nnn) s = .next t ∧ t.pc.toNat = nnn.toNat ∧ s.onlyPc t

/-- JP V0 loads pc with nnn + V0, not reduced modulo 4096 (R150: the spec's decision D13, log 13). -/
def Obligations.JpV0AddsV0 : Prop :=
  ∀ nnn : Addr, decodeWord (0xB#4 ++ nnn) = .ok (.jpV0 nnn) ∧
    ∀ s : State, ∃ t, exec (.jpV0 nnn) s = .next t ∧ t.pc.toNat = nnn.toNat + (s.reg 0x0#4).toNat ∧ s.onlyPc t

/-- CALL pushes pc, which is a + 2, and jumps (R143); with sixteen entries it raises StackOverflow, pc back at the CALL, its address and word
recorded and nothing else changed (the post-state is the spec's decision D14, log 14, the record D15, log 15). -/
def Obligations.CallPushesAndJumps : Prop :=
  ∀ nnn : Addr, decodeWord (0x2#4 ++ nnn) = .ok (.call nnn) ∧ ∀ s : State,
    (∀ h : s.sp.val < 16, ∃ t, exec (.call nnn) s = .next t ∧
      t.stack = s.stack.set s.sp.val s.pc h ∧ t.sp.val = s.sp.val + 1 ∧ t.pc.toNat = nnn.toNat ∧
      t = { s with stack := t.stack, sp := t.sp, pc := t.pc } ∧ (∀ j, t.reg j = s.reg j) ∧ s.sameBytes t) ∧
    (s.sp.val = 16 → ∃ t, exec (.call nnn) s = .next t ∧ s.faultedFrom t .stackOverflow (0x2#4 ++ nnn))

/-- RET pops pc and leaves the entry's value in place (R140, R29); on an empty stack it changes nothing, so pc stays a + 2 (the spec's decision
D23 and conflict C1, log 22). -/
def Obligations.RetPopsOrDoesNothing : Prop :=
  decodeWord 0x00EE#16 = .ok .ret ∧ ∀ s : State,
    (s.sp.val = 0 → exec .ret s = .next s) ∧
    ∀ (k : Nat) (hk : k < 16), s.sp.val = k + 1 → ∃ t, exec .ret s = .next t ∧
      t.pc = s.stack[k] ∧ t.sp.val = k ∧ t = { s with sp := t.sp, pc := t.pc } ∧ (∀ j, t.reg j = s.reg j) ∧ s.sameBytes t

/-- RET after CALL, with the return stack as CALL left it, comes back to the address after the CALL (95_test_vectors.md W5; R140, R143). -/
def Obligations.CallThenRetReturns : Prop :=
  ∀ (nnn : Addr) (s t u : State), s.sp.val < 16 → exec (.call nnn) s = .next t → u.stack = t.stack → u.sp = t.sp →
    exec .ret u = .next { u with pc := s.pc, sp := s.sp }

/-- The skips on an immediate add 2 to pc exactly when their condition holds (R144, R145). -/
def Obligations.ImmediateSkips : Prop :=
  ∀ (x : RegIdx) (kk : Byte),
    decodeWord (0x3#4 ++ x ++ kk) = .ok (.seImm x kk) ∧ decodeWord (0x4#4 ++ x ++ kk) = .ok (.sneImm x kk) ∧
    ∀ s : State,
      (∃ t, exec (.seImm x kk) s = .next t ∧ s.onlyPc t ∧
        (s.reg x = kk → t.pc = s.pc + 2#16) ∧ (s.reg x ≠ kk → t.pc = s.pc)) ∧
      ∃ t, exec (.sneImm x kk) s = .next t ∧ s.onlyPc t ∧
        (s.reg x ≠ kk → t.pc = s.pc + 2#16) ∧ (s.reg x = kk → t.pc = s.pc)

/-- The skips on two registers add 2 to pc exactly when their condition holds; with a nibble other than 0 their words are unrecognised (R146, R147). -/
def Obligations.RegisterSkips : Prop :=
  ∀ x y : RegIdx,
    decodeWord (0x5#4 ++ x ++ y ++ 0x0#4) = .ok (.seReg x y) ∧ decodeWord (0x9#4 ++ x ++ y ++ 0x0#4) = .ok (.sneReg x y) ∧
    (∀ n : BitVec 4, n ≠ 0x0#4 → decodeWord (0x5#4 ++ x ++ y ++ n) = .error (.unknownOpcode (0x5#4 ++ x ++ y ++ n)) ∧
      decodeWord (0x9#4 ++ x ++ y ++ n) = .error (.unknownOpcode (0x9#4 ++ x ++ y ++ n))) ∧
    ∀ s : State,
      (∃ t, exec (.seReg x y) s = .next t ∧ s.onlyPc t ∧
        (s.reg x = s.reg y → t.pc = s.pc + 2#16) ∧ (s.reg x ≠ s.reg y → t.pc = s.pc)) ∧
      ∃ t, exec (.sneReg x y) s = .next t ∧ s.onlyPc t ∧
        (s.reg x ≠ s.reg y → t.pc = s.pc + 2#16) ∧ (s.reg x = s.reg y → t.pc = s.pc)

/-- The key skips test the key whose number is in Vx; a value above 0x0F names no key and reads as not pressed (R230, R231, R233: the spec's
decision D21, log 20). -/
def Obligations.KeySkips : Prop :=
  ∀ x : RegIdx,
    decodeWord (0xE#4 ++ x ++ 0x9E#8) = .ok (.skp x) ∧ decodeWord (0xE#4 ++ x ++ 0xA1#8) = .ok (.sknp x) ∧
    ∀ s : State, ∃ t u, exec (.skp x) s = .next t ∧ exec (.sknp x) s = .next u ∧ s.onlyPc t ∧ s.onlyPc u ∧
      (∀ k : KeyIdx, (s.reg x).toNat = k.toNat → s.keyDown k = true → t.pc = s.pc + 2#16 ∧ u.pc = s.pc) ∧
      (∀ k : KeyIdx, (s.reg x).toNat = k.toNat → s.keyDown k = false → t.pc = s.pc ∧ u.pc = s.pc + 2#16) ∧
      (0x0F < (s.reg x).toNat → t.pc = s.pc ∧ u.pc = s.pc + 2#16)

/-! ### Register ALU -/

/-- The immediate load and the immediate add, modulo 256, with no flag: VF is written only as the destination (R160, R161). -/
def Obligations.ImmediateLoadAndAdd : Prop :=
  ∀ (x : RegIdx) (kk : Byte),
    decodeWord (0x6#4 ++ x ++ kk) = .ok (.ldImm x kk) ∧ decodeWord (0x7#4 ++ x ++ kk) = .ok (.addImm x kk) ∧
    ∀ s : State,
      (∃ t, exec (.ldImm x kk) s = .next t ∧ t.reg x = kk ∧ s.onlyRegs t [x]) ∧
      ∃ t, exec (.addImm x kk) s = .next t ∧ (t.reg x).toNat = ((s.reg x).toNat + kk.toNat) % 256 ∧ s.onlyRegs t [x]

/-- Copy, or, and, exclusive-or: the result bit by bit, no flag (R164-R167). -/
def Obligations.CopyAndLogic : Prop :=
  ∀ x y : RegIdx,
    decodeWord (0x8#4 ++ x ++ y ++ 0x0#4) = .ok (.ldReg x y) ∧ decodeWord (0x8#4 ++ x ++ y ++ 0x1#4) = .ok (.orReg x y) ∧
    decodeWord (0x8#4 ++ x ++ y ++ 0x2#4) = .ok (.andReg x y) ∧ decodeWord (0x8#4 ++ x ++ y ++ 0x3#4) = .ok (.xorReg x y) ∧
    ∀ s : State,
      (∃ t, exec (.ldReg x y) s = .next t ∧ t.reg x = s.reg y ∧ s.onlyRegs t [x]) ∧
      (∃ t, exec (.orReg x y) s = .next t ∧ s.onlyRegs t [x] ∧
        ∀ b < 8, (t.reg x).getLsbD b = ((s.reg x).getLsbD b || (s.reg y).getLsbD b)) ∧
      (∃ t, exec (.andReg x y) s = .next t ∧ s.onlyRegs t [x] ∧
        ∀ b < 8, (t.reg x).getLsbD b = ((s.reg x).getLsbD b && (s.reg y).getLsbD b)) ∧
      ∃ t, exec (.xorReg x y) s = .next t ∧ s.onlyRegs t [x] ∧
        ∀ b < 8, (t.reg x).getLsbD b = ((s.reg x).getLsbD b != (s.reg y).getLsbD b)

/-- ADD, SUB and SUBN on registers: the result modulo 256 in Vx and the flag in VF (R168, R169, R171); that the operands are read first and the
flag wins when x is F is the spec's decision D10 (R109, log 10). -/
def Obligations.ArithmeticSetsFlag : Prop :=
  ∀ x y : RegIdx,
    decodeWord (0x8#4 ++ x ++ y ++ 0x4#4) = .ok (.addReg x y) ∧ decodeWord (0x8#4 ++ x ++ y ++ 0x5#4) = .ok (.subReg x y) ∧
    decodeWord (0x8#4 ++ x ++ y ++ 0x7#4) = .ok (.subnReg x y) ∧
    ∀ s : State,
      (∃ t, exec (.addReg x y) s = .next t ∧ s.onlyRegs t [x, vF] ∧
        (x ≠ vF → (t.reg x).toNat = ((s.reg x).toNat + (s.reg y).toNat) % 256) ∧
        (t.reg vF).toNat = if (s.reg x).toNat + (s.reg y).toNat > 0xFF then 1 else 0) ∧
      (∃ t, exec (.subReg x y) s = .next t ∧ s.onlyRegs t [x, vF] ∧
        (x ≠ vF → ((t.reg x).toNat : Int) = ((s.reg x).toNat - (s.reg y).toNat : Int) % 256) ∧
        (t.reg vF).toNat = if (s.reg x).toNat ≥ (s.reg y).toNat then 1 else 0) ∧
      ∃ t, exec (.subnReg x y) s = .next t ∧ s.onlyRegs t [x, vF] ∧
        (x ≠ vF → ((t.reg x).toNat : Int) = ((s.reg y).toNat - (s.reg x).toNat : Int) % 256) ∧
        (t.reg vF).toNat = if (s.reg y).toNat ≥ (s.reg x).toNat then 1 else 0

/-- SHR and SHL shift Vx by one and put the bit shifted out in VF, which wins when x is F (R170, R172: the order is the spec's decision D10,
log 10); the y field changes nothing (R85). -/
def Obligations.ShiftsSetFlagAndIgnoreVy : Prop :=
  ∀ x y : RegIdx,
    decodeWord (0x8#4 ++ x ++ y ++ 0x6#4) = .ok (.shr x y) ∧ decodeWord (0x8#4 ++ x ++ y ++ 0xE#4) = .ok (.shl x y) ∧
    ∀ s : State,
      (∃ t, (∀ y', exec (.shr x y') s = .next t) ∧ s.onlyRegs t [x, vF] ∧
        (x ≠ vF → (t.reg x).toNat = (s.reg x).toNat / 2) ∧ (t.reg vF).toNat = (s.reg x).toNat % 2) ∧
      ∃ t, (∀ y', exec (.shl x y') s = .next t) ∧ s.onlyRegs t [x, vF] ∧
        (x ≠ vF → (t.reg x).toNat = 2 * (s.reg x).toNat % 256) ∧ (t.reg vF).toNat = (s.reg x).toNat / 128

/-- RND puts the random byte and kk in Vx, so that no bit that kk lacks is ever set (R173). The random byte is a FREE VALUE, the draw that the
counter draws selects, and the counter is the model's own (R114: D2, log 1): the statement holds for every value of both. -/
def Obligations.RndMasksFreeDraw : Prop :=
  ∀ (x : RegIdx) (kk : Byte), decodeWord (0xC#4 ++ x ++ kk) = .ok (.rnd x kk) ∧
    ∀ s : State, ∃ t, exec (.rnd x kk) s = .next t ∧
      (∀ b < 8, (t.reg x).getLsbD b = ((Config.rndDraw s.draws).getLsbD b && kk.getLsbD b)) ∧
      t = { s with V := t.V, draws := s.draws + 1 } ∧ (∀ j, j ≠ x → t.reg j = s.reg j) ∧ s.sameBytes t

/-- The random draw is read only by RND: no other instruction's effect depends on which draw is next (R114: D2, log 1). -/
def Obligations.OnlyRndReadsTheDraw : Prop :=
  ∀ (i : Instr) (s t : State) (n : Nat), (∀ x kk, i ≠ .rnd x kk) → exec i s = .next t →
    exec i { s with draws := n } = .next { t with draws := n } ∧ t.draws = s.draws

/-- A general register changes only as a destination the instruction names, or as VF by one of the six flag writers, whose flag is 0 or 1
where they complete (R21, R22). -/
def Obligations.RegistersChangeOnlyAsNamed : Prop :=
  ∀ (i : Instr) (s t : State), exec i s = .next t →
    (∀ j, t.reg j ≠ s.reg j → j ∈ destinations i ∨ (j = vF ∧ writesFlag i = true)) ∧
    (writesFlag i = true → s.status = .running → t.status = .running → t.reg vF = 0x00#8 ∨ t.reg vF = 0x01#8)

/-! ### Index register and memory -/

/-- LD I loads I with nnn (R190). -/
def Obligations.LdILoadsIndex : Prop :=
  ∀ nnn : Addr, decodeWord (0xA#4 ++ nnn) = .ok (.ldI nnn) ∧
    ∀ s : State, ∃ t, exec (.ldI nnn) s = .next t ∧ t.I.toNat = nnn.toNat ∧ s.onlyI t

/-- ADD I adds Vx to I modulo 4096 and leaves VF alone (R191: the spec's decision D9, log 9); LD F points I at the glyph of the low nibble of Vx
(R192: D5, log 6; FONT_BASE is a parameter, D3, log 2). -/
def Obligations.AddIAndLdFSetIndex : Prop :=
  ∀ x : RegIdx,
    decodeWord (0xF#4 ++ x ++ 0x1E#8) = .ok (.addIVx x) ∧ decodeWord (0xF#4 ++ x ++ 0x29#8) = .ok (.ldFVx x) ∧
    ∀ s : State,
      (∃ t, exec (.addIVx x) s = .next t ∧ t.I.toNat = (s.I.toNat + (s.reg x).toNat) % 4096 ∧ s.onlyI t) ∧
      ∃ t, exec (.ldFVx x) s = .next t ∧ t.I.toNat = (Param.fontBase + 5 * ((s.reg x).toNat % 16)) % 4096 ∧ s.onlyI t

/-- LD B stores the hundreds, tens and units of Vx at I, I+1, I+2, and no other byte (R196); past 0xFFF it raises MemoryBoundsViolation with
nothing written but the fault record, pc back at the instruction (the post-state is the spec's decision D14, log 14, the record D15, log 15, and
that no byte moves D18, log 17). -/
def Obligations.BcdStoresDigits : Prop :=
  ∀ x : RegIdx, decodeWord (0xF#4 ++ x ++ 0x33#8) = .ok (.ldBVx x) ∧ ∀ s : State,
    (s.I.toNat + 3 ≤ 4096 → ∃ t, exec (.ldBVx x) s = .next t ∧
      (Memory.byteAt t.mem s.I.toNat).toNat = (s.reg x).toNat / 100 ∧
      (Memory.byteAt t.mem (s.I.toNat + 1)).toNat = (s.reg x).toNat / 10 % 10 ∧
      (Memory.byteAt t.mem (s.I.toNat + 2)).toNat = (s.reg x).toNat % 10 ∧ s.onlyBytes t s.I.toNat 3) ∧
    (4096 < s.I.toNat + 3 → ∃ t, exec (.ldBVx x) s = .next t ∧ s.faultedFrom t .memoryBoundsViolation (0xF#4 ++ x ++ 0x33#8))

/-- LD [I] stores V0 to Vx at I to I+x, and no other byte, I unchanged (R197: the spec's decision D17, log 16). -/
def Obligations.RegisterStore : Prop :=
  ∀ x : RegIdx, decodeWord (0xF#4 ++ x ++ 0x55#8) = .ok (.ldMemVx x) ∧ ∀ s : State,
    s.I.toNat + x.toNat + 1 ≤ 4096 → ∃ t, exec (.ldMemVx x) s = .next t ∧
      (∀ j : RegIdx, j.toNat ≤ x.toNat → Memory.byteAt t.mem (s.I.toNat + j.toNat) = s.reg j) ∧
      s.onlyBytes t s.I.toNat (x.toNat + 1)

/-- LD Vx, [I] loads V0 to Vx from I to I+x, and no other register, I unchanged (R198: the spec's decision D17, log 16). -/
def Obligations.RegisterLoad : Prop :=
  ∀ x : RegIdx, decodeWord (0xF#4 ++ x ++ 0x65#8) = .ok (.ldVxMem x) ∧ ∀ s : State,
    s.I.toNat + x.toNat + 1 ≤ 4096 → ∃ t, exec (.ldVxMem x) s = .next t ∧
      (∀ j : RegIdx, j.toNat ≤ x.toNat → t.reg j = Memory.byteAt s.mem (s.I.toNat + j.toNat)) ∧
      (∀ j : RegIdx, x.toNat < j.toNat → t.reg j = s.reg j) ∧
      t = { s with V := t.V } ∧ s.sameBytes t

/-- A load of V0 to Vx from where they were stored gives them back, whatever happened to the registers in between (R197, R198, R58). -/
def Obligations.StoreThenLoadRestores : Prop :=
  ∀ (x : RegIdx) (s t u : State), s.I.toNat + x.toNat + 1 ≤ 4096 → exec (.ldMemVx x) s = .next t → u.mem = t.mem → u.I = s.I →
    ∃ v, exec (.ldVxMem x) u = .next v ∧ (∀ j : RegIdx, j.toNat ≤ x.toNat → v.reg j = s.reg j) ∧
      ∀ j : RegIdx, x.toNat < j.toNat → v.reg j = u.reg j

/-- Memory is written only by LD B and LD [I], and by them only in their range from I (R51). -/
def Obligations.MemoryWrittenOnlyByStores : Prop :=
  ∀ (i : Instr) (s t : State) (a : Nat), exec i s = .next t → Memory.byteAt t.mem a ≠ Memory.byteAt s.mem a →
    (∃ x, i = .ldBVx x ∧ s.I.toNat ≤ a ∧ a < s.I.toNat + 3) ∨
    ∃ x, i = .ldMemVx x ∧ s.I.toNat ≤ a ∧ a ≤ s.I.toNat + x.toNat

/-- The very next fetch sees a store: the word at two stored bytes is those bytes, the lower address in bits 15-8 (R53; R64, the spec's
inference). -/
def Obligations.FetchSeesStore : Prop :=
  ∀ (x j k : RegIdx) (s t : State), s.I.toNat + x.toNat + 1 ≤ 4096 → k.toNat = j.toNat + 1 → k.toNat ≤ x.toNat →
    exec (.ldMemVx x) s = .next t →
    ({ t with pc := s.I + j.setWidth 16 } : State).fetchWord = some (s.reg j ++ s.reg k)

/-- Two memories in canonical form that read the same at every address are equal data (the model's representation, log 32). -/
def Obligations.CanonicalMemoriesAgree : Prop :=
  ∀ m m' : Memory, Memory.wf m → Memory.wf m' → (∀ a, a < 4096 → Memory.byteAt m a = Memory.byteAt m' a) → m = m'

/-! ### Display -/

/-- CLS turns every pixel off and changes nothing else, VF among it (R210). -/
def Obligations.ClsClearsEveryPixel : Prop :=
  decodeWord 0x00E0#16 = .ok .cls ∧ ∀ s : State, ∃ t, exec .cls s = .next t ∧ (∀ px py, t.pixel px py = false) ∧
    t = { s with disp := t.disp } ∧ (∀ j, t.reg j = s.reg j) ∧ s.sameBytes t

/-- DRW inverts exactly the pixels the sprite's set bits fall on, reports a collision exactly when one of them was on, and changes nothing else:
the compositor's loops do what R211-R213 say pixel by pixel, under either edge policy; exec takes this hardware's. The sprite layout is the
spec's decision D7 (log 7), n = 0 D8 (log 8), the policy D6 (log 4). -/
def Obligations.DrwXorsSprite : Prop :=
  ∀ (x y : RegIdx) (n : BitVec 4), decodeWord (0xD#4 ++ x ++ y ++ n) = .ok (.drw x y n) ∧ ∀ s : State,
    s.I.toNat + n.toNat ≤ 4096 →
    (∃ t, exec (.drw x y n) s = .next t ∧ s.drewSprite t Param.spriteEdge x y n.toNat) ∧
    ∀ edge, s.drewSprite (drwWith edge x y n s) edge x y n.toNat

/-- Drawing the same sprite twice at the same coordinates gives the display back; the second draw reports a collision exactly when the first
turned some pixel on (R212, R213; the first half of R215, whose second half holds only where a drawn pixel was off before, log 36). -/
def Obligations.DrawTwiceRestores : Prop :=
  ∀ (x y : RegIdx) (n : BitVec 4) (s t u v : State), s.I.toNat + n.toNat ≤ 4096 → exec (.drw x y n) s = .next t →
    u.disp = t.disp → u.mem = s.mem → u.I = s.I → u.reg x = s.reg x → u.reg y = s.reg y → exec (.drw x y n) u = .next v →
    v.disp = s.disp ∧ (v.reg vF = 0x01#8 ↔ ∃ px py, s.pixel px py = false ∧ t.pixel px py = true)

/-- The display changes only by CLS, DRW and RESET: by no other instruction, and by no transaction other than STEP and RESET (R216, R280). -/
def Obligations.DisplayWrittenOnlyByClsAndDrw : Prop :=
  (∀ (i : Instr) (s t : State), exec i s = .next t → t.disp ≠ s.disp → i = .cls ∨ ∃ x y n, i = .drw x y n) ∧
  ∀ (b b' : Block) (tx : Transaction) (r : Reply), b.transact tx = .next (b', r) → b'.state.disp ≠ b.state.disp →
    tx = .step ∨ tx = .reset

/-! ### Keys and timers -/

/-- The timer transfers: Vx from DT, DT from Vx, ST from Vx, nothing else changed; the tone is active after the last exactly when Vx is not 0
(R234, R235, R236). -/
def Obligations.TimerTransfers : Prop :=
  ∀ x : RegIdx,
    decodeWord (0xF#4 ++ x ++ 0x07#8) = .ok (.ldVxDT x) ∧ decodeWord (0xF#4 ++ x ++ 0x15#8) = .ok (.ldDTVx x) ∧
    decodeWord (0xF#4 ++ x ++ 0x18#8) = .ok (.ldSTVx x) ∧
    ∀ s : State,
      (∃ t, exec (.ldVxDT x) s = .next t ∧ t.reg x = s.DT ∧ s.onlyRegs t [x]) ∧
      exec (.ldDTVx x) s = .next { s with DT := s.reg x } ∧
      ∃ t, exec (.ldSTVx x) s = .next t ∧ t = { s with ST := s.reg x } ∧ (t.toneActive = true ↔ s.reg x ≠ 0x00#8)

/-- LD Vx, K suspends the engine with destination x and no key latched, whatever keys are down, nothing else changed (R232: the spec's decision
D20, log 19). -/
def Obligations.KeyWaitBegins : Prop :=
  ∀ x : RegIdx, decodeWord (0xF#4 ++ x ++ 0x0A#8) = .ok (.ldVxK x) ∧
    ∀ s : State, exec (.ldVxK x) s = .next { s with wait := some x, kev := none }

/-- TICK takes one off each timer that is not zero, in every status, and changes nothing else (R262; in every status is the spec's decision D25,
log 24); the transaction TICK does that to the engine's state, in every phase (R100: D1, log 27; the phase is the model's, log 35, log 42). -/
def Obligations.TickCountsDown : Prop :=
  (∀ s : State, s.tick.DT.toNat = s.DT.toNat - 1 ∧ s.tick.ST.toNat = s.ST.toNat - 1 ∧
    s.tick = { s with DT := s.tick.DT, ST := s.tick.ST }) ∧
  ∀ b : Block, b.transact .tick = .next (⟨b.state.tick, b.phase⟩, .done)

/-- SET_KEY writes the state of key k and latches k exactly when it presses the first key down during a wait with none latched; an index above
0x0F changes nothing (R263: the spec's decisions D20, D21, log 19, log 20); the transaction SET_KEY does that to the engine's state, in every
phase (R100: D1, log 27; the phase is the model's, log 35, log 42). -/
def Obligations.SetKeyWritesAndLatches : Prop :=
  (∀ (s : State) (p : Bool),
    (∀ k, 0x0F < k → s.setKey k p = s) ∧
    ∀ k : KeyIdx,
      (s.setKey k.toNat p).keyDown k = p ∧ (∀ j, j ≠ k → (s.setKey k.toNat p).keyDown j = s.keyDown j) ∧
      (p = true ∧ (∀ j, s.keyDown j = false) ∧ s.wait ≠ none ∧ s.kev = none → (s.setKey k.toNat p).kev = some k) ∧
      (¬(p = true ∧ (∀ j, s.keyDown j = false) ∧ s.wait ≠ none ∧ s.kev = none) → (s.setKey k.toNat p).kev = s.kev) ∧
      s.setKey k.toNat p = { s with key := (s.setKey k.toNat p).key, kev := (s.setKey k.toNat p).kev }) ∧
  ∀ (b : Block) (k : Nat) (p : Bool), b.transact (.setKey k p) = .next (⟨b.state.setKey k p, b.phase⟩, .done)

/-- The key wait as a whole: after LD Vx, K every STEP waits until the first press from no key down, and the STEP after it writes the key and
lets the program go on where it was; a press while a key is held does not end the wait (R108, R232, R263: the spec's decision D20, log 19). -/
def Obligations.KeyWaitEndsOnFirstPress : Prop :=
  ∀ (x : RegIdx) (k : KeyIdx) (s t : State), s.status = .running → exec (.ldVxK x) s = .next t →
    step t = .next t ∧
    ((∀ j, s.keyDown j = false) → ∃ v, step (t.setKey k.toNat true) = .next v ∧ (v.reg x).toNat = k.toNat ∧
      (∀ j, j ≠ x → v.reg j = s.reg j) ∧ v.wait = none ∧ v.kev = none ∧ v.pc = s.pc ∧ v.status = .running) ∧
    ∀ j, s.keyDown j = true → step (t.setKey k.toNat true) = .next (t.setKey k.toNat true)

/-- Each field changes only by the instructions the spec names as its writers: I (R24), the return stack (R28), the timers (R30, R31); the key
states by none (R33); pc only by control transfer and skips (R103). Three clauses rest on decisions of the spec: the wait and its latch (R34, R35:
D20, log 19), status (R36: D14, log 14, and D26, log 25), and pc back to a by a fault (R254: D14, log 14; the record D15, log 15). -/
def Obligations.FieldsChangeOnlyByTheirWriters : Prop :=
  ∀ (i : Instr) (s t : State), exec i s = .next t →
    (t.I ≠ s.I → t.I.toNat ≤ 0x0FFF ∧ ((∃ n, i = .ldI n) ∨ (∃ x, i = .addIVx x) ∨ ∃ x, i = .ldFVx x)) ∧
    (t.stack ≠ s.stack → ∃ n, i = .call n) ∧ (t.sp ≠ s.sp → i = .ret ∨ ∃ n, i = .call n) ∧
    (t.DT ≠ s.DT → ∃ x, i = .ldDTVx x) ∧ (t.ST ≠ s.ST → ∃ x, i = .ldSTVx x) ∧ t.key = s.key ∧
    (t.wait ≠ s.wait ∨ t.kev ≠ s.kev → ∃ x, i = .ldVxK x) ∧
    (t.status ≠ s.status → (∃ n, i = .call n) ∨ (∃ x, i = .ldBVx x) ∨ (∃ x, i = .ldMemVx x) ∨ (∃ x, i = .ldVxMem x) ∨
      ∃ x y n, i = .drw x y n) ∧
    (t.pc ≠ s.pc → (t.pc = s.pc - 2#16 ∧ ∃ k w, t.status = .faulted k (s.pc - 2#16) w) ∨
      i = .ret ∨ (∃ n, i = .jp n) ∨ (∃ n, i = .call n) ∨ (∃ n, i = .jpV0 n) ∨ (∃ x kk, i = .seImm x kk) ∨ (∃ x kk, i = .sneImm x kk) ∨
      (∃ x y, i = .seReg x y) ∨ (∃ x y, i = .sneReg x y) ∨ (∃ x, i = .skp x) ∨ ∃ x, i = .sknp x)

/-! ### Reset, load and the reads -/

/-- The reset state (R280): the values of the table; every byte of memory below 4096 the font's or zero. The display, keys, stack entries, I
and the key wait are the spec's decisions D20, D22 (log 21), status D26; the font's place and bytes D3, D4 (log 2, log 3). -/
def Obligations.ResetValues : Prop :=
  (∀ j, State.reset.reg j = 0x00#8) ∧ State.reset.I = 0x0000#16 ∧ State.reset.pc = 0x0200#16 ∧ State.reset.sp.val = 0 ∧
  (∀ (j : Nat) (h : j < 16), State.reset.stack[j] = 0x0000#16) ∧ State.reset.DT = 0x00#8 ∧ State.reset.ST = 0x00#8 ∧
  (∀ px py, State.reset.pixel px py = false) ∧ (∀ k, State.reset.keyDown k = false) ∧
  State.reset.wait = none ∧ State.reset.kev = none ∧ State.reset.status = .running ∧
  ∀ a, a < 4096 → Memory.byteAt State.reset.mem a =
    if Param.fontBase ≤ a ∧ a < Param.fontBase + 80 then Param.fontGlyphs.getD (a - Param.fontBase) 0x00#8 else 0x00#8

/-- LOAD copies an even image of at most 3584 bytes to 0x200 and changes nothing else; a longer one is ProgramTooLarge, an odd one OddLength
(R283; that the size is checked first is the spec's decision D24, log 23). -/
def Obligations.LoadCopiesImage : Prop :=
  ∀ (s : State) (image : List Byte),
    (image.length ≤ 3584 → image.length % 2 = 0 → ∃ t, s.load image = .ok t ∧
      (∀ (k : Nat) (h : k < image.length), Memory.byteAt t.mem (0x200 + k) = image[k]) ∧
      s.onlyBytes t 0x200 image.length) ∧
    (3584 < image.length → s.load image = .error .programTooLarge) ∧
    (image.length ≤ 3584 → image.length % 2 = 1 → s.load image = .error .oddLength)

/-- RESET, from every block, gives the reset state with only the model's own draws kept (R280, R282: D26; log 35), and LOAD runs once, on that
state: taken right after RESET, with the state of State.load and Ok, or its error and nothing written; refused after a LOAD or a STEP, or on any
other state, until RESET, since no other transaction makes the phase fresh and TICK, SET_KEY and the reads leave it as it is; a STEP after a
failed LOAD is refused (R283, R284: the spec's decision D24, log 23; the phase is the model's, log 35, and that the states are compared by value,
log 41). -/
def Obligations.LoadOnlyInItsPlace : Prop :=
  (∀ b : Block, b.transact .reset = .next (⟨{ State.reset with draws := b.state.draws }, .fresh⟩, .done)) ∧
  (∀ (b : Block) (image : List Byte), ∃ b', b.transact .reset = .next (b', .done) ∧
    ∃ b'' r, b'.transact (.load image) = .next (b'', r) ∧
      (r = .done → b''.phase = .begun) ∧ (r ≠ .done → b''.phase = .loadFailed ∧ b''.state = b'.state)) ∧
  (∀ (b : Block) (image : List Byte), b.phase = .fresh → b.state = { State.reset with draws := b.state.draws } →
    b.answersLoad image (b.transact (.load image))) ∧
  (∀ (b : Block) (image : List Byte), b.phase ≠ .fresh → b.transact (.load image) = .refused .loadOutOfPlace) ∧
  (∀ (b : Block) (image : List Byte), b.state ≠ { State.reset with draws := b.state.draws } →
    b.transact (.load image) = .refused .loadOutOfPlace) ∧
  (∀ (b b' : Block) (tx : Transaction) (r : Reply), b.transact tx = .next (b', r) →
    (tx ≠ .reset → b'.phase = .fresh → b.phase = .fresh) ∧
    (tx ≠ .reset → tx ≠ .step → (∀ image, tx ≠ .load image) → b'.phase = b.phase)) ∧
  (∀ (b b' : Block) (r : Reply), b.transact .step = .next (b', r) → b'.phase = .begun) ∧
  ∀ b : Block, b.phase = .loadFailed → b.transact .step = .refused .runNeverBegan

/-- For every block: GET_DISPLAY returns the display, whose pixel (x, y) is bit y * 64 + x of the flattened grid (R265: the spec's decision D29,
log 28); GET_SOUND_TIMER returns ST and GET_DELAY_TIMER DT, the tone is active exactly while ST is not 0 (R266); GET_STATUS returns status (R267;
the record in it is D15, log 15); none of them changes anything. The transaction STEP steps the engine's state (R101), and its outcome is
Continue, Halt or Fault with the record as the status it leaves is Running, Halted or Faulted (R104), which GET_STATUS then reads; a finished
engine gives its outcome again (R110: D26, log 25). The phase is the model's (log 35, log 42). -/
def Obligations.ReadsReportState : Prop :=
  (∀ b : Block, ∃ d, b.transact .getDisplay = .next (b, .display d) ∧ d = b.state.disp ∧
    ∀ (x : Fin 64) (y : Fin 32), d.flatten.getLsbD (y.val * 64 + x.val) = b.state.pixel x y) ∧
  (∀ b : Block, b.transact .getSoundTimer = .next (b, .timer b.state.ST) ∧ b.transact .getDelayTimer = .next (b, .timer b.state.DT) ∧
    (b.state.toneActive = true ↔ b.state.ST.toNat ≠ 0)) ∧
  (∀ b : Block, b.transact .getStatus = .next (b, .status b.state.status)) ∧
  (∀ (b : Block) (t : State), b.phase ≠ .loadFailed → step b.state = .next t →
    b.transact .step = .next (⟨t, .begun⟩, .stepped t.status.stepResult)) ∧
  (∀ (b b' : Block) (r : Reply), b.transact .step = .next (b', r) →
    step b.state = .next b'.state ∧ r = .stepped b'.state.status.stepResult ∧
    ∃ v, b'.transact .getStatus = .next (b', .status v) ∧ v = b'.state.status ∧
      ((r = .stepped .continued ∧ v = .running) ∨ (r = .stepped .halted ∧ v = .halted) ∨
        ∃ k a w, r = .stepped (.fault k a w) ∧ v = .faulted k a w)) ∧
  ∀ b : Block, b.phase ≠ .loadFailed → b.state.status ≠ .running →
    b.transact .step = .next (⟨b.state, .begun⟩, .stepped b.state.status.stepResult)

/-! ### The parameters (00_scope.md R11) -/

/-- The reset state for every legal font table: memory holds the table at FONT_BASE and zeros elsewhere, every other field is that of the reset
state, the invariant holds; under the values this spec takes it is the reset state (R11, R38, R39, R280; the values are D3, D4, log 2, log 3; that
memory is canonical is the model's, log 32). -/
def Obligations.ResetTakesAnyFont : Prop :=
  (∀ p : Params, p.legal →
    (∀ a, a < 4096 → Memory.byteAt (State.resetWith p).mem a =
      if p.fontBase ≤ a ∧ a < p.fontBase + 80 then p.fontGlyphs.getD (a - p.fontBase) 0x00#8 else 0x00#8) ∧
    State.resetWith p = { State.reset with mem := (State.resetWith p).mem } ∧ (State.resetWith p).Inv) ∧
  State.resetWith Param.values = State.reset

/-- The step and the transactions for all values of the parameters. LD F reads FONT_BASE (R192; the low nibble is D5, log 6) and DRW SPRITE_EDGE
(R214: D6, log 4; the sprite layout is D7, log 7, n = 0 D8, log 8); every other instruction is that of this hardware. A step runs the decoded
instruction; a finished engine stays (D26, log 25), a key wait writes the latched key or nothing (D20, log 19) and a pc past the end halts (D12,
log 12), as on this hardware; an unrecognised word is O13's. It always answers a next state (a fault is one: D14, log 14, log 17) and keeps the
invariant. RESET gives the reset state of the parameters; LOAD is taken on that state alone and STEP steps under the parameters (D24, log 23;
log 35, log 41, log 42); TICK, SET_KEY and the reads are those of this hardware. Under the values this spec takes (D3, log 2; D4, log 3; D16,
log 5) all of it is this hardware (R11). -/
def Obligations.StepTakesAnyParameters : Prop :=
  (∀ p : Params,
    (∀ (i : Instr) (s : State), (∀ x, i ≠ .ldFVx x) → (∀ x y n, i ≠ .drw x y n) → execWith p i s = exec i s) ∧
    (∀ (x : RegIdx) (s : State), ∃ t, execWith p (.ldFVx x) s = .next t ∧
      t.I.toNat = (p.fontBase + 5 * ((s.reg x).toNat % 16)) % 4096 ∧ s.onlyI t) ∧
    (∀ (x y : RegIdx) (n : BitVec 4) (s : State), ∃ t, execWith p (.drw x y n) s = .next t ∧
      (s.I.toNat + n.toNat ≤ 4096 → s.drewSprite t p.spriteEdge x y n.toNat) ∧
      (4096 < s.I.toNat + n.toNat → s.faultedFrom t .memoryBoundsViolation (0xD#4 ++ x ++ y ++ n))) ∧
    (∀ (s : State) (i : Instr) (w : Word), s.status = .running → s.wait = none → s.fetchWord = some w → decodeWord w = .ok i →
      stepWith p s = execWith p i { s with pc := s.pc + 2#16 }) ∧
    (∀ s : State, s.status ≠ .running → stepWith p s = .next s) ∧
    (∀ (s : State) (x : RegIdx), s.status = .running → s.wait = some x →
      (s.kev = none → stepWith p s = .next s) ∧
      ∀ k, s.kev = some k → ∃ t, stepWith p s = .next t ∧ (t.reg x).toNat = k.toNat ∧ (∀ j, j ≠ x → t.reg j = s.reg j) ∧
        t = { s with V := t.V, wait := none, kev := none }) ∧
    (∀ s : State, s.status = .running → s.wait = none → 0x0FFE < s.pc.toNat → stepWith p s = .next { s with status := .halted }) ∧
    (∀ s : State, ∃ t, stepWith p s = .next t) ∧
    (∀ s t : State, s.Inv → stepWith p s = .next t → t.Inv) ∧
    (∀ b : Block, b.transactWith p .reset = .next (⟨{ State.resetWith p with draws := b.state.draws }, .fresh⟩, .done)) ∧
    (∀ (b : Block) (image : List Byte),
      (b.phase = .fresh → b.state = { State.resetWith p with draws := b.state.draws } →
        b.answersLoad image (b.transactWith p (.load image))) ∧
      (b.phase ≠ .fresh ∨ b.state ≠ { State.resetWith p with draws := b.state.draws } →
        b.transactWith p (.load image) = .refused .loadOutOfPlace)) ∧
    (∀ b : Block, b.phase = .loadFailed → b.transactWith p .step = .refused .runNeverBegan) ∧
    (∀ (b : Block) (t : State), b.phase ≠ .loadFailed → stepWith p b.state = .next t →
      b.transactWith p .step = .next (⟨t, .begun⟩, .stepped t.status.stepResult)) ∧
    ∀ (b : Block) (tx : Transaction), tx ≠ .reset → tx ≠ .step → (∀ image, tx ≠ .load image) → b.transactWith p tx = b.transact tx) ∧
  (∀ s : State, stepWith Param.values s = step s) ∧
  ∀ (b : Block) (tx : Transaction), b.transactWith Param.values tx = b.transact tx
end

