-- ==== Sys2Proof/Laws/Decode.lean ====
section
/-! SUPPORT. The fields of the words the encoder makes, a word as the join of its fields, and what the selection of an operation gives. -/

namespace Sys2Proof

/-- The join of two fields, as numbers: what every field lemma below rests on. -/
theorem toNat_append_fields {m n : Nat} (a : BitVec m) (b : BitVec n) : (a ++ b).toNat = a.toNat * 2 ^ n + b.toNat := by
  rw [BitVec.toNat_append, ← Nat.shiftLeft_add_eq_or_of_lt b.isLt, Nat.shiftLeft_eq]

/-! ### The fields of a word, as numbers (R71) -/

theorem decodeFields_raw (w : Word) : (decodeFields w).raw = w := rfl

theorem decodeFields_cls_toNat (w : Word) : (decodeFields w).cls.toNat = w.toNat / 4096 := by
  have := w.isLt
  simp [decodeFields, Nat.shiftRight_eq_div_pow]
  omega

theorem decodeFields_addr_toNat (w : Word) : (decodeFields w).addr.toNat = w.toNat % 4096 := by
  simp [decodeFields]

theorem decodeFields_regX_toNat (w : Word) : (decodeFields w).regX.toNat = w.toNat / 256 % 16 := by
  simp [decodeFields, Nat.shiftRight_eq_div_pow]

theorem decodeFields_regY_toNat (w : Word) : (decodeFields w).regY.toNat = w.toNat / 16 % 16 := by
  simp [decodeFields, Nat.shiftRight_eq_div_pow]

theorem decodeFields_byte_toNat (w : Word) : (decodeFields w).byte.toNat = w.toNat % 256 := by
  simp [decodeFields]

theorem decodeFields_nibble_toNat (w : Word) : (decodeFields w).nibble.toNat = w.toNat % 16 := by
  simp [decodeFields]

/-! ### The words the encoder makes, as numbers (R75) -/

theorem wordNnn_toNat (c : BitVec 4) (nnn : Addr) : (wordNnn c nnn).toNat = c.toNat * 4096 + nnn.toNat :=
  toNat_append_fields c nnn

theorem wordXkk_toNat (c : BitVec 4) (x : RegIdx) (kk : Byte) :
    (wordXkk c x kk).toNat = (c.toNat * 16 + x.toNat) * 256 + kk.toNat := by
  unfold wordXkk
  rw [toNat_append_fields, toNat_append_fields]
  omega

theorem wordXyn_toNat (c : BitVec 4) (x y : RegIdx) (n : BitVec 4) :
    (wordXyn c x y n).toNat = ((c.toNat * 16 + x.toNat) * 16 + y.toNat) * 16 + n.toNat := by
  unfold wordXyn
  rw [toNat_append_fields, toNat_append_fields, toNat_append_fields]
  omega

/-! ### The fields of those words -/

/-- The fields of a word of the form cnnn that its operation uses. -/
@[simp] theorem decodeFields_wordNnn_cls (c : BitVec 4) (nnn : Addr) : (decodeFields (wordNnn c nnn)).cls = c := by
  have := nnn.isLt
  refine BitVec.eq_of_toNat_eq ?_
  rw [decodeFields_cls_toNat, wordNnn_toNat]
  omega

@[simp] theorem decodeFields_wordNnn_addr (c : BitVec 4) (nnn : Addr) : (decodeFields (wordNnn c nnn)).addr = nnn := by
  have := nnn.isLt
  refine BitVec.eq_of_toNat_eq ?_
  rw [decodeFields_addr_toNat, wordNnn_toNat]
  omega

@[simp] theorem decodeFields_wordXkk_cls (c : BitVec 4) (x : RegIdx) (kk : Byte) :
    (decodeFields (wordXkk c x kk)).cls = c := by
  have := kk.isLt
  have := x.isLt
  refine BitVec.eq_of_toNat_eq ?_
  rw [decodeFields_cls_toNat, wordXkk_toNat]
  omega

@[simp] theorem decodeFields_wordXkk_regX (c : BitVec 4) (x : RegIdx) (kk : Byte) :
    (decodeFields (wordXkk c x kk)).regX = x := by
  have := kk.isLt
  have := x.isLt
  refine BitVec.eq_of_toNat_eq ?_
  rw [decodeFields_regX_toNat, wordXkk_toNat]
  omega

@[simp] theorem decodeFields_wordXkk_byte (c : BitVec 4) (x : RegIdx) (kk : Byte) :
    (decodeFields (wordXkk c x kk)).byte = kk := by
  have := kk.isLt
  refine BitVec.eq_of_toNat_eq ?_
  rw [decodeFields_byte_toNat, wordXkk_toNat]
  omega

@[simp] theorem decodeFields_wordXyn_cls (c : BitVec 4) (x y : RegIdx) (n : BitVec 4) :
    (decodeFields (wordXyn c x y n)).cls = c := by
  have := x.isLt
  have := y.isLt
  have := n.isLt
  refine BitVec.eq_of_toNat_eq ?_
  rw [decodeFields_cls_toNat, wordXyn_toNat]
  omega

@[simp] theorem decodeFields_wordXyn_regX (c : BitVec 4) (x y : RegIdx) (n : BitVec 4) :
    (decodeFields (wordXyn c x y n)).regX = x := by
  have := x.isLt
  have := y.isLt
  have := n.isLt
  refine BitVec.eq_of_toNat_eq ?_
  rw [decodeFields_regX_toNat, wordXyn_toNat]
  omega

@[simp] theorem decodeFields_wordXyn_regY (c : BitVec 4) (x y : RegIdx) (n : BitVec 4) :
    (decodeFields (wordXyn c x y n)).regY = y := by
  have := x.isLt
  have := y.isLt
  have := n.isLt
  refine BitVec.eq_of_toNat_eq ?_
  rw [decodeFields_regY_toNat, wordXyn_toNat]
  omega

@[simp] theorem decodeFields_wordXyn_nibble (c : BitVec 4) (x y : RegIdx) (n : BitVec 4) :
    (decodeFields (wordXyn c x y n)).nibble = n := by
  have := n.isLt
  refine BitVec.eq_of_toNat_eq ?_
  rw [decodeFields_nibble_toNat, wordXyn_toNat]
  omega

/-! ### A word is the join of its fields -/

theorem wordNnn_decodeFields (w : Word) : wordNnn (decodeFields w).cls (decodeFields w).addr = w := by
  have := w.isLt
  refine BitVec.eq_of_toNat_eq ?_
  rw [wordNnn_toNat, decodeFields_cls_toNat, decodeFields_addr_toNat]
  omega

theorem wordXkk_decodeFields (w : Word) :
    wordXkk (decodeFields w).cls (decodeFields w).regX (decodeFields w).byte = w := by
  have := w.isLt
  refine BitVec.eq_of_toNat_eq ?_
  rw [wordXkk_toNat, decodeFields_cls_toNat, decodeFields_regX_toNat, decodeFields_byte_toNat]
  omega

theorem wordXyn_decodeFields (w : Word) :
    wordXyn (decodeFields w).cls (decodeFields w).regX (decodeFields w).regY (decodeFields w).nibble = w := by
  have := w.isLt
  refine BitVec.eq_of_toNat_eq ?_
  rw [wordXyn_toNat, decodeFields_cls_toNat, decodeFields_regX_toNat, decodeFields_regY_toNat, decodeFields_nibble_toNat]
  omega

/-! ### Words and bytes (R53) -/

theorem wordOfBytes_toNat (hi lo : Byte) : (wordOfBytes hi lo).toNat = hi.toNat * 256 + lo.toNat :=
  toNat_append_fields hi lo

/-- The bytes of a word, joined, are the word. -/
@[simp] theorem wordOfBytes_bytesOfWord (w : Word) : wordOfBytes (w.extractLsb' 8 8) (w.extractLsb' 0 8) = w := by
  have := w.isLt
  refine BitVec.eq_of_toNat_eq ?_
  rw [wordOfBytes_toNat]
  simp [Nat.shiftRight_eq_div_pow]
  omega

@[simp] theorem decode_bytesOfWord (w : Word) (rest : List Byte) :
    decode (bytesOfWord w ++ rest) =
      match decodeWord w with
      | .ok i => .ok (i, rest)
      | .error e => .error e := by
  rcases h : decodeWord w with e | i <;> simp [bytesOfWord, decode, h]

/-- The decoder rejects a word by no other name than unknownOpcode, and names the word (R83). -/
theorem decodeWord_error {w : Word} {e : DecodeError} (h : decodeWord w = .error e) : e = .unknownOpcode w := by
  unfold decodeWord selectOp at h
  split at h <;> try cases h
  · unfold selectClass0 at h
    split at h <;> cases h
  · unfold selectClass5 at h
    split at h <;> cases h
    rfl
  · unfold selectClass8 at h
    split at h <;> cases h
    rfl
  · unfold selectClass9 at h
    split at h <;> cases h
    rfl
  · unfold selectClassE at h
    split at h <;> cases h
    rfl
  · unfold selectClassF at h
    split at h <;> cases h
    rfl

end Sys2Proof
end

