-- ==== Sys2Proof/Laws/Memory.lean ====
section
/-! SUPPORT. The laws of memory: a read after a write, every other byte alone, and the canonical form kept by every memory operation (log 32). -/

namespace Sys2Proof.Machine

/-! ### One byte -/

@[simp] theorem Memory.byteAt_nil (a : Nat) : Memory.byteAt [] a = Memory.unlisted a := rfl

theorem Memory.byteAt_cons (b : Nat) (v : Byte) (m : Memory) (a : Nat) :
    Memory.byteAt ((b, v) :: m) a = if b = a then v else Memory.byteAt m a := rfl

/-- An address that is not listed reads as its reset content. -/
theorem Memory.byteAt_of_not_listed {m : Memory} {a : Nat} (h : ∀ c ∈ m, c.1 ≠ a) :
    Memory.byteAt m a = Memory.unlisted a := by
  induction m with
  | nil => rfl
  | cons c m ih =>
    obtain ⟨b, v⟩ := c
    have hb : b ≠ a := h (b, v) (by simp)
    simp [Memory.byteAt_cons, hb, ih fun c hc => h c (by simp [hc])]

/-- Taking an address off the list leaves every other address as it was. -/
theorem Memory.byteAt_filter (m : Memory) (a c : Nat) :
    Memory.byteAt (m.filter fun p => p.1 ≠ a) c = if c = a then Memory.unlisted a else Memory.byteAt m c := by
  induction m with
  | nil => by_cases h : c = a <;> simp [h]
  | cons p m ih =>
    obtain ⟨b, v⟩ := p
    by_cases hb : b = a
    · subst hb
      rw [List.filter_cons_of_neg (by simp), ih, Memory.byteAt_cons]
      by_cases hc : c = b
      · simp [hc]
      · simp [hc, Ne.symm hc]
    · rw [List.filter_cons_of_pos (by simpa using hb), Memory.byteAt_cons, Memory.byteAt_cons, ih]
      by_cases hbc : b = c
      · subst hbc
        simp [hb]
      · simp [hbc]

theorem Memory.byteAt_insertCell (a : Nat) (v : Byte) (m : Memory) (c : Nat) (h : ∀ p ∈ m, p.1 ≠ a) :
    Memory.byteAt (Memory.insertCell a v m) c = if c = a then v else Memory.byteAt m c := by
  induction m with
  | nil =>
    by_cases hc : c = a
    · simp [Memory.insertCell, Memory.byteAt_cons, hc]
    · simp [Memory.insertCell, Memory.byteAt_cons, hc, Ne.symm hc]
  | cons p m ih =>
    obtain ⟨b, u⟩ := p
    have hb : b ≠ a := h (b, u) (by simp)
    have hm : ∀ p ∈ m, p.1 ≠ a := fun p hp => h p (by simp [hp])
    unfold Memory.insertCell
    split
    · rw [Memory.byteAt_cons]
      by_cases hc : a = c
      · simp [hc]
      · simp [hc, Ne.symm hc]
    · rw [Memory.byteAt_cons, ih hm, Memory.byteAt_cons]
      by_cases hc : b = c
      · subst hc
        simp [hb]
      · simp [hc]

/-- A read after a write: the byte written at its address, every other byte as before (R58). -/
@[simp] theorem Memory.byteAt_write (m : Memory) (a : Nat) (v : Byte) (c : Nat) :
    Memory.byteAt (Memory.write m a v) c = if c = a then v else Memory.byteAt m c := by
  unfold Memory.write
  split
  · rename_i hv
    rw [Memory.byteAt_filter, hv]
  · rw [Memory.byteAt_insertCell _ _ _ _ (by simp), Memory.byteAt_filter]
    by_cases hc : c = a <;> simp [hc]

/-! ### Ranges of bytes -/

@[simp] theorem Memory.writeBytes_nil (m : Memory) (a : Nat) : Memory.writeBytes m a [] = m := rfl

@[simp] theorem Memory.writeBytes_cons (m : Memory) (a : Nat) (b : Byte) (bs : List Byte) :
    Memory.writeBytes m a (b :: bs) = Memory.writeBytes (Memory.write m a b) (a + 1) bs := rfl

/-- Inside the range the bytes written, outside it every byte as before. -/
theorem Memory.byteAt_writeBytes (m : Memory) (a : Nat) (bs : List Byte) (c : Nat) :
    Memory.byteAt (Memory.writeBytes m a bs) c =
      if h : a ≤ c ∧ c < a + bs.length then bs[c - a]'(by omega) else Memory.byteAt m c := by
  induction bs generalizing m a with
  | nil =>
    rw [dif_neg (by simp), Memory.writeBytes_nil]
  | cons b bs ih =>
    rw [Memory.writeBytes_cons, ih, Memory.byteAt_write]
    by_cases hc : c = a
    · subst hc
      simp
    · by_cases hr : a + 1 ≤ c ∧ c < a + 1 + bs.length
      · have hr' : a ≤ c ∧ c < a + (b :: bs).length := by simp; omega
        have he : c - a = (c - (a + 1)) + 1 := by omega
        simp only [hr, hr', and_self, dif_pos]
        simp [he]
      · have hr' : ¬(a ≤ c ∧ c < a + (b :: bs).length) := by simp; omega
        rw [dif_neg hr, dif_neg hr', if_neg hc]

theorem Memory.byteAt_writeBytes_of_outside (m : Memory) (a : Nat) (bs : List Byte) {c : Nat}
    (h : c < a ∨ a + bs.length ≤ c) : Memory.byteAt (Memory.writeBytes m a bs) c = Memory.byteAt m c := by
  rw [Memory.byteAt_writeBytes, dif_neg (by omega)]

theorem Memory.byteAt_writeBytes_of_inside (m : Memory) (a : Nat) (bs : List Byte) {k : Nat} (h : k < bs.length) :
    Memory.byteAt (Memory.writeBytes m a bs) (a + k) = bs[k] := by
  rw [Memory.byteAt_writeBytes, dif_pos (by omega)]
  simp

/-- MemRead over a range is defined exactly when the range ends inside memory, and gives the bytes in rising order (R16). -/
theorem Memory.readRange_eq_some {m : Memory} {a n : Nat} {bs : List Byte} :
    Memory.readRange m a n = some bs ↔
      a + n ≤ Config.memSize ∧ bs = (List.range n).map fun k => Memory.byteAt m (a + k) := by
  unfold Memory.readRange
  split <;> simp [*, eq_comm]

theorem Memory.readRange_eq_none {m : Memory} {a n : Nat} :
    Memory.readRange m a n = none ↔ Config.memSize < a + n := by
  unfold Memory.readRange
  split <;> simp <;> omega

/-- MemWrite over a range is defined exactly when the range ends inside memory (R16). -/
theorem Memory.writeRange_eq_some {m m' : Memory} {a : Nat} {bs : List Byte} :
    Memory.writeRange m a bs = some m' ↔ a + bs.length ≤ Config.memSize ∧ m' = Memory.writeBytes m a bs := by
  unfold Memory.writeRange
  split <;> simp [*, eq_comm]

theorem Memory.writeRange_eq_none {m : Memory} {a : Nat} {bs : List Byte} :
    Memory.writeRange m a bs = none ↔ Config.memSize < a + bs.length := by
  unfold Memory.writeRange
  split <;> simp <;> omega

/-- Writing what unlisted addresses read as, to memory with nothing listed, lists nothing. -/
theorem Memory.writeBytes_unlisted (a : Nat) (bs : List Byte) (h : ∀ (k : Nat) (hk : k < bs.length), bs[k] = Memory.unlisted (a + k)) :
    Memory.writeBytes [] a bs = [] := by
  induction bs generalizing a with
  | nil => rfl
  | cons b bs ih =>
    have hb : b = Memory.unlisted a := h 0 (by simp)
    rw [Memory.writeBytes_cons, Memory.write, if_pos hb, List.filter_nil]
    refine ih (a + 1) fun k hk => ?_
    have := h (k + 1) (by simpa using hk)
    rw [List.getElem_cons_succ] at this
    rw [this, Nat.add_assoc, Nat.add_comm 1 k]

/-- Memory with a font table: the reset content in the reserved range, what is above it as unlisted (R38, R39). -/
theorem Memory.byteAt_withFont (fontBase : Nat) (fontGlyphs : List Byte) (a : Nat) :
    Memory.byteAt (Memory.withFont fontBase fontGlyphs) a =
      if a < Config.programBase then Memory.resetByte fontBase fontGlyphs a else Memory.unlisted a := by
  unfold Memory.withFont
  rw [Memory.byteAt_writeBytes]
  by_cases h : a < Config.programBase
  · rw [dif_pos (by simpa using h), if_pos h]
    simp
  · rw [dif_neg (by simpa using h), if_neg h, Memory.byteAt_nil]

/-! ### The canonical form -/

theorem Memory.wf_nil : Memory.wf [] := by
  simp [Memory.wf]

theorem Memory.wf_filter {m : Memory} (h : Memory.wf m) (q : Host.Cell → Bool) : Memory.wf (m.filter q) :=
  ⟨h.1.filter _, fun c hc => h.2 c (List.mem_of_mem_filter hc)⟩

theorem Memory.mem_insertCell {a : Nat} {v : Byte} {m : Memory} {c : Host.Cell} :
    c ∈ Memory.insertCell a v m ↔ c = (a, v) ∨ c ∈ m := by
  induction m with
  | nil => simp [Memory.insertCell]
  | cons p m ih =>
    obtain ⟨b, u⟩ := p
    unfold Memory.insertCell
    split
    · simp
    · simp only [List.mem_cons, ih]
      tauto

theorem Memory.wf_insertCell {m : Memory} {a : Nat} {v : Byte} (h : Memory.wf m) (ha : a < Config.memSize)
    (hv : v ≠ Memory.unlisted a) (hm : ∀ c ∈ m, c.1 ≠ a) : Memory.wf (Memory.insertCell a v m) := by
  induction m with
  | nil =>
    refine ⟨by simp [Memory.insertCell], fun c hc => ?_⟩
    have : c = (a, v) := by simpa [Memory.insertCell] using hc
    subst this
    exact ⟨ha, hv⟩
  | cons p m ih =>
    obtain ⟨b, u⟩ := p
    have htail : Memory.wf m := ⟨(List.pairwise_cons.mp h.1).2, fun c hc => h.2 c (by simp [hc])⟩
    have hhead := (List.pairwise_cons.mp h.1).1
    have hb := h.2 (b, u) (by simp)
    have hne : b ≠ a := hm (b, u) (by simp)
    unfold Memory.insertCell
    split
    · rename_i hlt
      refine ⟨List.pairwise_cons.mpr ⟨fun c hc => ?_, h.1⟩, fun c hc => ?_⟩
      · rcases List.mem_cons.mp hc with rfl | hc
        · exact hlt
        · exact Nat.lt_trans hlt (hhead c hc)
      · rcases List.mem_cons.mp hc with rfl | hc
        · exact ⟨ha, hv⟩
        · exact h.2 c hc
    · rename_i hlt
      have hrec := ih htail (fun c hc => hm c (by simp [hc]))
      refine ⟨List.pairwise_cons.mpr ⟨fun c hc => ?_, hrec.1⟩, fun c hc => ?_⟩
      · rcases Memory.mem_insertCell.mp hc with rfl | hc
        · show b < a
          omega
        · exact hhead c hc
      · rcases List.mem_cons.mp hc with rfl | hc
        · exact hb
        · exact hrec.2 c hc

/-- A write inside memory keeps the canonical form. -/
theorem Memory.wf_write {m : Memory} {a : Nat} {v : Byte} (h : Memory.wf m) (ha : a < Config.memSize) :
    Memory.wf (Memory.write m a v) := by
  unfold Memory.write
  split
  · exact Memory.wf_filter h _
  · exact Memory.wf_insertCell (Memory.wf_filter h _) ha ‹_› (by simp)

/-- A range of writes inside memory keeps the canonical form. -/
theorem Memory.wf_writeBytes {m : Memory} {a : Nat} {bs : List Byte} (h : Memory.wf m)
    (ha : a + bs.length ≤ Config.memSize) : Memory.wf (Memory.writeBytes m a bs) := by
  induction bs generalizing m a with
  | nil => exact h
  | cons b bs ih =>
    simp only [List.length_cons] at ha
    exact ih (Memory.wf_write h (by omega)) (by omega)

/-- Memory with a font table is in canonical form. -/
theorem Memory.wf_withFont (fontBase : Nat) (fontGlyphs : List Byte) : Memory.wf (Memory.withFont fontBase fontGlyphs) := by
  unfold Memory.withFont
  refine Memory.wf_writeBytes Memory.wf_nil ?_
  rw [List.length_map, List.length_range]
  decide

/-- The checked range write keeps the canonical form. -/
theorem Memory.wf_writeRange {m m' : Memory} {a : Nat} {bs : List Byte} (h : Memory.wf m)
    (hw : Memory.writeRange m a bs = some m') : Memory.wf m' := by
  obtain ⟨ha, rfl⟩ := Memory.writeRange_eq_some.mp hw
  exact Memory.wf_writeBytes h ha

end Sys2Proof.Machine
end

