-- ==== Sys2Proof/Laws/State.lean ====
section
/-! SUPPORT. What each named update of the state does to each field, true by rfl; the updates that loop or branch keep every field but
those they name. No later proof unfolds a record update. -/

namespace Sys2Proof.Machine

/-! ### State.setReg -/

@[simp] theorem State.setReg_V (s : State) (x : RegIdx) (b : Byte) : (s.setReg x b).V = s.V.set x.toNat b x.isLt := rfl
@[simp] theorem State.setReg_I (s : State) (x : RegIdx) (b : Byte) : (s.setReg x b).I = s.I := rfl
@[simp] theorem State.setReg_pc (s : State) (x : RegIdx) (b : Byte) : (s.setReg x b).pc = s.pc := rfl
@[simp] theorem State.setReg_stack (s : State) (x : RegIdx) (b : Byte) : (s.setReg x b).stack = s.stack := rfl
@[simp] theorem State.setReg_sp (s : State) (x : RegIdx) (b : Byte) : (s.setReg x b).sp = s.sp := rfl
@[simp] theorem State.setReg_DT (s : State) (x : RegIdx) (b : Byte) : (s.setReg x b).DT = s.DT := rfl
@[simp] theorem State.setReg_ST (s : State) (x : RegIdx) (b : Byte) : (s.setReg x b).ST = s.ST := rfl
@[simp] theorem State.setReg_mem (s : State) (x : RegIdx) (b : Byte) : (s.setReg x b).mem = s.mem := rfl
@[simp] theorem State.setReg_disp (s : State) (x : RegIdx) (b : Byte) : (s.setReg x b).disp = s.disp := rfl
@[simp] theorem State.setReg_key (s : State) (x : RegIdx) (b : Byte) : (s.setReg x b).key = s.key := rfl
@[simp] theorem State.setReg_wait (s : State) (x : RegIdx) (b : Byte) : (s.setReg x b).wait = s.wait := rfl
@[simp] theorem State.setReg_kev (s : State) (x : RegIdx) (b : Byte) : (s.setReg x b).kev = s.kev := rfl
@[simp] theorem State.setReg_status (s : State) (x : RegIdx) (b : Byte) : (s.setReg x b).status = s.status := rfl
@[simp] theorem State.setReg_draws (s : State) (x : RegIdx) (b : Byte) : (s.setReg x b).draws = s.draws := rfl

/-! ### State.setI -/

@[simp] theorem State.setI_V (s : State) (v : Word) : (s.setI v).V = s.V := rfl
@[simp] theorem State.setI_I (s : State) (v : Word) : (s.setI v).I = v &&& 0x0FFF#16 := rfl
@[simp] theorem State.setI_pc (s : State) (v : Word) : (s.setI v).pc = s.pc := rfl
@[simp] theorem State.setI_stack (s : State) (v : Word) : (s.setI v).stack = s.stack := rfl
@[simp] theorem State.setI_sp (s : State) (v : Word) : (s.setI v).sp = s.sp := rfl
@[simp] theorem State.setI_DT (s : State) (v : Word) : (s.setI v).DT = s.DT := rfl
@[simp] theorem State.setI_ST (s : State) (v : Word) : (s.setI v).ST = s.ST := rfl
@[simp] theorem State.setI_mem (s : State) (v : Word) : (s.setI v).mem = s.mem := rfl
@[simp] theorem State.setI_disp (s : State) (v : Word) : (s.setI v).disp = s.disp := rfl
@[simp] theorem State.setI_key (s : State) (v : Word) : (s.setI v).key = s.key := rfl
@[simp] theorem State.setI_wait (s : State) (v : Word) : (s.setI v).wait = s.wait := rfl
@[simp] theorem State.setI_kev (s : State) (v : Word) : (s.setI v).kev = s.kev := rfl
@[simp] theorem State.setI_status (s : State) (v : Word) : (s.setI v).status = s.status := rfl
@[simp] theorem State.setI_draws (s : State) (v : Word) : (s.setI v).draws = s.draws := rfl
@[simp] theorem State.setI_reg (s : State) (v : Word) (j : RegIdx) : (s.setI v).reg j = s.reg j := rfl

/-! ### State.setPc -/

@[simp] theorem State.setPc_V (s : State) (a : Word) : (s.setPc a).V = s.V := rfl
@[simp] theorem State.setPc_I (s : State) (a : Word) : (s.setPc a).I = s.I := rfl
@[simp] theorem State.setPc_pc (s : State) (a : Word) : (s.setPc a).pc = a := rfl
@[simp] theorem State.setPc_stack (s : State) (a : Word) : (s.setPc a).stack = s.stack := rfl
@[simp] theorem State.setPc_sp (s : State) (a : Word) : (s.setPc a).sp = s.sp := rfl
@[simp] theorem State.setPc_DT (s : State) (a : Word) : (s.setPc a).DT = s.DT := rfl
@[simp] theorem State.setPc_ST (s : State) (a : Word) : (s.setPc a).ST = s.ST := rfl
@[simp] theorem State.setPc_mem (s : State) (a : Word) : (s.setPc a).mem = s.mem := rfl
@[simp] theorem State.setPc_disp (s : State) (a : Word) : (s.setPc a).disp = s.disp := rfl
@[simp] theorem State.setPc_key (s : State) (a : Word) : (s.setPc a).key = s.key := rfl
@[simp] theorem State.setPc_wait (s : State) (a : Word) : (s.setPc a).wait = s.wait := rfl
@[simp] theorem State.setPc_kev (s : State) (a : Word) : (s.setPc a).kev = s.kev := rfl
@[simp] theorem State.setPc_status (s : State) (a : Word) : (s.setPc a).status = s.status := rfl
@[simp] theorem State.setPc_draws (s : State) (a : Word) : (s.setPc a).draws = s.draws := rfl
@[simp] theorem State.setPc_reg (s : State) (a : Word) (j : RegIdx) : (s.setPc a).reg j = s.reg j := rfl

/-! ### State.advance -/

@[simp] theorem State.advance_V (s : State) : (s.advance).V = s.V := rfl
@[simp] theorem State.advance_I (s : State) : (s.advance).I = s.I := rfl
@[simp] theorem State.advance_pc (s : State) : (s.advance).pc = s.pc + 2#16 := rfl
@[simp] theorem State.advance_stack (s : State) : (s.advance).stack = s.stack := rfl
@[simp] theorem State.advance_sp (s : State) : (s.advance).sp = s.sp := rfl
@[simp] theorem State.advance_DT (s : State) : (s.advance).DT = s.DT := rfl
@[simp] theorem State.advance_ST (s : State) : (s.advance).ST = s.ST := rfl
@[simp] theorem State.advance_mem (s : State) : (s.advance).mem = s.mem := rfl
@[simp] theorem State.advance_disp (s : State) : (s.advance).disp = s.disp := rfl
@[simp] theorem State.advance_key (s : State) : (s.advance).key = s.key := rfl
@[simp] theorem State.advance_wait (s : State) : (s.advance).wait = s.wait := rfl
@[simp] theorem State.advance_kev (s : State) : (s.advance).kev = s.kev := rfl
@[simp] theorem State.advance_status (s : State) : (s.advance).status = s.status := rfl
@[simp] theorem State.advance_draws (s : State) : (s.advance).draws = s.draws := rfl
@[simp] theorem State.advance_reg (s : State) (j : RegIdx) : (s.advance).reg j = s.reg j := rfl

/-! ### State.setMem -/

@[simp] theorem State.setMem_V (s : State) (m : Memory) : (s.setMem m).V = s.V := rfl
@[simp] theorem State.setMem_I (s : State) (m : Memory) : (s.setMem m).I = s.I := rfl
@[simp] theorem State.setMem_pc (s : State) (m : Memory) : (s.setMem m).pc = s.pc := rfl
@[simp] theorem State.setMem_stack (s : State) (m : Memory) : (s.setMem m).stack = s.stack := rfl
@[simp] theorem State.setMem_sp (s : State) (m : Memory) : (s.setMem m).sp = s.sp := rfl
@[simp] theorem State.setMem_DT (s : State) (m : Memory) : (s.setMem m).DT = s.DT := rfl
@[simp] theorem State.setMem_ST (s : State) (m : Memory) : (s.setMem m).ST = s.ST := rfl
@[simp] theorem State.setMem_mem (s : State) (m : Memory) : (s.setMem m).mem = m := rfl
@[simp] theorem State.setMem_disp (s : State) (m : Memory) : (s.setMem m).disp = s.disp := rfl
@[simp] theorem State.setMem_key (s : State) (m : Memory) : (s.setMem m).key = s.key := rfl
@[simp] theorem State.setMem_wait (s : State) (m : Memory) : (s.setMem m).wait = s.wait := rfl
@[simp] theorem State.setMem_kev (s : State) (m : Memory) : (s.setMem m).kev = s.kev := rfl
@[simp] theorem State.setMem_status (s : State) (m : Memory) : (s.setMem m).status = s.status := rfl
@[simp] theorem State.setMem_draws (s : State) (m : Memory) : (s.setMem m).draws = s.draws := rfl
@[simp] theorem State.setMem_reg (s : State) (m : Memory) (j : RegIdx) : (s.setMem m).reg j = s.reg j := rfl

/-! ### State.setDT -/

@[simp] theorem State.setDT_V (s : State) (v : Byte) : (s.setDT v).V = s.V := rfl
@[simp] theorem State.setDT_I (s : State) (v : Byte) : (s.setDT v).I = s.I := rfl
@[simp] theorem State.setDT_pc (s : State) (v : Byte) : (s.setDT v).pc = s.pc := rfl
@[simp] theorem State.setDT_stack (s : State) (v : Byte) : (s.setDT v).stack = s.stack := rfl
@[simp] theorem State.setDT_sp (s : State) (v : Byte) : (s.setDT v).sp = s.sp := rfl
@[simp] theorem State.setDT_DT (s : State) (v : Byte) : (s.setDT v).DT = v := rfl
@[simp] theorem State.setDT_ST (s : State) (v : Byte) : (s.setDT v).ST = s.ST := rfl
@[simp] theorem State.setDT_mem (s : State) (v : Byte) : (s.setDT v).mem = s.mem := rfl
@[simp] theorem State.setDT_disp (s : State) (v : Byte) : (s.setDT v).disp = s.disp := rfl
@[simp] theorem State.setDT_key (s : State) (v : Byte) : (s.setDT v).key = s.key := rfl
@[simp] theorem State.setDT_wait (s : State) (v : Byte) : (s.setDT v).wait = s.wait := rfl
@[simp] theorem State.setDT_kev (s : State) (v : Byte) : (s.setDT v).kev = s.kev := rfl
@[simp] theorem State.setDT_status (s : State) (v : Byte) : (s.setDT v).status = s.status := rfl
@[simp] theorem State.setDT_draws (s : State) (v : Byte) : (s.setDT v).draws = s.draws := rfl
@[simp] theorem State.setDT_reg (s : State) (v : Byte) (j : RegIdx) : (s.setDT v).reg j = s.reg j := rfl

/-! ### State.setST -/

@[simp] theorem State.setST_V (s : State) (v : Byte) : (s.setST v).V = s.V := rfl
@[simp] theorem State.setST_I (s : State) (v : Byte) : (s.setST v).I = s.I := rfl
@[simp] theorem State.setST_pc (s : State) (v : Byte) : (s.setST v).pc = s.pc := rfl
@[simp] theorem State.setST_stack (s : State) (v : Byte) : (s.setST v).stack = s.stack := rfl
@[simp] theorem State.setST_sp (s : State) (v : Byte) : (s.setST v).sp = s.sp := rfl
@[simp] theorem State.setST_DT (s : State) (v : Byte) : (s.setST v).DT = s.DT := rfl
@[simp] theorem State.setST_ST (s : State) (v : Byte) : (s.setST v).ST = v := rfl
@[simp] theorem State.setST_mem (s : State) (v : Byte) : (s.setST v).mem = s.mem := rfl
@[simp] theorem State.setST_disp (s : State) (v : Byte) : (s.setST v).disp = s.disp := rfl
@[simp] theorem State.setST_key (s : State) (v : Byte) : (s.setST v).key = s.key := rfl
@[simp] theorem State.setST_wait (s : State) (v : Byte) : (s.setST v).wait = s.wait := rfl
@[simp] theorem State.setST_kev (s : State) (v : Byte) : (s.setST v).kev = s.kev := rfl
@[simp] theorem State.setST_status (s : State) (v : Byte) : (s.setST v).status = s.status := rfl
@[simp] theorem State.setST_draws (s : State) (v : Byte) : (s.setST v).draws = s.draws := rfl
@[simp] theorem State.setST_reg (s : State) (v : Byte) (j : RegIdx) : (s.setST v).reg j = s.reg j := rfl

/-! ### State.setDisp -/

@[simp] theorem State.setDisp_V (s : State) (d : Display) : (s.setDisp d).V = s.V := rfl
@[simp] theorem State.setDisp_I (s : State) (d : Display) : (s.setDisp d).I = s.I := rfl
@[simp] theorem State.setDisp_pc (s : State) (d : Display) : (s.setDisp d).pc = s.pc := rfl
@[simp] theorem State.setDisp_stack (s : State) (d : Display) : (s.setDisp d).stack = s.stack := rfl
@[simp] theorem State.setDisp_sp (s : State) (d : Display) : (s.setDisp d).sp = s.sp := rfl
@[simp] theorem State.setDisp_DT (s : State) (d : Display) : (s.setDisp d).DT = s.DT := rfl
@[simp] theorem State.setDisp_ST (s : State) (d : Display) : (s.setDisp d).ST = s.ST := rfl
@[simp] theorem State.setDisp_mem (s : State) (d : Display) : (s.setDisp d).mem = s.mem := rfl
@[simp] theorem State.setDisp_disp (s : State) (d : Display) : (s.setDisp d).disp = d := rfl
@[simp] theorem State.setDisp_key (s : State) (d : Display) : (s.setDisp d).key = s.key := rfl
@[simp] theorem State.setDisp_wait (s : State) (d : Display) : (s.setDisp d).wait = s.wait := rfl
@[simp] theorem State.setDisp_kev (s : State) (d : Display) : (s.setDisp d).kev = s.kev := rfl
@[simp] theorem State.setDisp_status (s : State) (d : Display) : (s.setDisp d).status = s.status := rfl
@[simp] theorem State.setDisp_draws (s : State) (d : Display) : (s.setDisp d).draws = s.draws := rfl
@[simp] theorem State.setDisp_reg (s : State) (d : Display) (j : RegIdx) : (s.setDisp d).reg j = s.reg j := rfl

/-! ### State.beginWait -/

@[simp] theorem State.beginWait_V (s : State) (x : RegIdx) : (s.beginWait x).V = s.V := rfl
@[simp] theorem State.beginWait_I (s : State) (x : RegIdx) : (s.beginWait x).I = s.I := rfl
@[simp] theorem State.beginWait_pc (s : State) (x : RegIdx) : (s.beginWait x).pc = s.pc := rfl
@[simp] theorem State.beginWait_stack (s : State) (x : RegIdx) : (s.beginWait x).stack = s.stack := rfl
@[simp] theorem State.beginWait_sp (s : State) (x : RegIdx) : (s.beginWait x).sp = s.sp := rfl
@[simp] theorem State.beginWait_DT (s : State) (x : RegIdx) : (s.beginWait x).DT = s.DT := rfl
@[simp] theorem State.beginWait_ST (s : State) (x : RegIdx) : (s.beginWait x).ST = s.ST := rfl
@[simp] theorem State.beginWait_mem (s : State) (x : RegIdx) : (s.beginWait x).mem = s.mem := rfl
@[simp] theorem State.beginWait_disp (s : State) (x : RegIdx) : (s.beginWait x).disp = s.disp := rfl
@[simp] theorem State.beginWait_key (s : State) (x : RegIdx) : (s.beginWait x).key = s.key := rfl
@[simp] theorem State.beginWait_wait (s : State) (x : RegIdx) : (s.beginWait x).wait = some x := rfl
@[simp] theorem State.beginWait_kev (s : State) (x : RegIdx) : (s.beginWait x).kev = none := rfl
@[simp] theorem State.beginWait_status (s : State) (x : RegIdx) : (s.beginWait x).status = s.status := rfl
@[simp] theorem State.beginWait_draws (s : State) (x : RegIdx) : (s.beginWait x).draws = s.draws := rfl
@[simp] theorem State.beginWait_reg (s : State) (x : RegIdx) (j : RegIdx) : (s.beginWait x).reg j = s.reg j := rfl

/-! ### State.endWait -/

@[simp] theorem State.endWait_V (s : State) : (s.endWait).V = s.V := rfl
@[simp] theorem State.endWait_I (s : State) : (s.endWait).I = s.I := rfl
@[simp] theorem State.endWait_pc (s : State) : (s.endWait).pc = s.pc := rfl
@[simp] theorem State.endWait_stack (s : State) : (s.endWait).stack = s.stack := rfl
@[simp] theorem State.endWait_sp (s : State) : (s.endWait).sp = s.sp := rfl
@[simp] theorem State.endWait_DT (s : State) : (s.endWait).DT = s.DT := rfl
@[simp] theorem State.endWait_ST (s : State) : (s.endWait).ST = s.ST := rfl
@[simp] theorem State.endWait_mem (s : State) : (s.endWait).mem = s.mem := rfl
@[simp] theorem State.endWait_disp (s : State) : (s.endWait).disp = s.disp := rfl
@[simp] theorem State.endWait_key (s : State) : (s.endWait).key = s.key := rfl
@[simp] theorem State.endWait_wait (s : State) : (s.endWait).wait = none := rfl
@[simp] theorem State.endWait_kev (s : State) : (s.endWait).kev = none := rfl
@[simp] theorem State.endWait_status (s : State) : (s.endWait).status = s.status := rfl
@[simp] theorem State.endWait_draws (s : State) : (s.endWait).draws = s.draws := rfl
@[simp] theorem State.endWait_reg (s : State) (j : RegIdx) : (s.endWait).reg j = s.reg j := rfl

/-! ### State.countDraw -/

@[simp] theorem State.countDraw_V (s : State) : (s.countDraw).V = s.V := rfl
@[simp] theorem State.countDraw_I (s : State) : (s.countDraw).I = s.I := rfl
@[simp] theorem State.countDraw_pc (s : State) : (s.countDraw).pc = s.pc := rfl
@[simp] theorem State.countDraw_stack (s : State) : (s.countDraw).stack = s.stack := rfl
@[simp] theorem State.countDraw_sp (s : State) : (s.countDraw).sp = s.sp := rfl
@[simp] theorem State.countDraw_DT (s : State) : (s.countDraw).DT = s.DT := rfl
@[simp] theorem State.countDraw_ST (s : State) : (s.countDraw).ST = s.ST := rfl
@[simp] theorem State.countDraw_mem (s : State) : (s.countDraw).mem = s.mem := rfl
@[simp] theorem State.countDraw_disp (s : State) : (s.countDraw).disp = s.disp := rfl
@[simp] theorem State.countDraw_key (s : State) : (s.countDraw).key = s.key := rfl
@[simp] theorem State.countDraw_wait (s : State) : (s.countDraw).wait = s.wait := rfl
@[simp] theorem State.countDraw_kev (s : State) : (s.countDraw).kev = s.kev := rfl
@[simp] theorem State.countDraw_status (s : State) : (s.countDraw).status = s.status := rfl
@[simp] theorem State.countDraw_draws (s : State) : (s.countDraw).draws = s.draws + 1 := rfl
@[simp] theorem State.countDraw_reg (s : State) (j : RegIdx) : (s.countDraw).reg j = s.reg j := rfl

/-! ### State.setStatus -/

@[simp] theorem State.setStatus_V (s : State) (v : Status) : (s.setStatus v).V = s.V := rfl
@[simp] theorem State.setStatus_I (s : State) (v : Status) : (s.setStatus v).I = s.I := rfl
@[simp] theorem State.setStatus_pc (s : State) (v : Status) : (s.setStatus v).pc = s.pc := rfl
@[simp] theorem State.setStatus_stack (s : State) (v : Status) : (s.setStatus v).stack = s.stack := rfl
@[simp] theorem State.setStatus_sp (s : State) (v : Status) : (s.setStatus v).sp = s.sp := rfl
@[simp] theorem State.setStatus_DT (s : State) (v : Status) : (s.setStatus v).DT = s.DT := rfl
@[simp] theorem State.setStatus_ST (s : State) (v : Status) : (s.setStatus v).ST = s.ST := rfl
@[simp] theorem State.setStatus_mem (s : State) (v : Status) : (s.setStatus v).mem = s.mem := rfl
@[simp] theorem State.setStatus_disp (s : State) (v : Status) : (s.setStatus v).disp = s.disp := rfl
@[simp] theorem State.setStatus_key (s : State) (v : Status) : (s.setStatus v).key = s.key := rfl
@[simp] theorem State.setStatus_wait (s : State) (v : Status) : (s.setStatus v).wait = s.wait := rfl
@[simp] theorem State.setStatus_kev (s : State) (v : Status) : (s.setStatus v).kev = s.kev := rfl
@[simp] theorem State.setStatus_status (s : State) (v : Status) : (s.setStatus v).status = v := rfl
@[simp] theorem State.setStatus_draws (s : State) (v : Status) : (s.setStatus v).draws = s.draws := rfl
@[simp] theorem State.setStatus_reg (s : State) (v : Status) (j : RegIdx) : (s.setStatus v).reg j = s.reg j := rfl

/-! ### State.halt -/

@[simp] theorem State.halt_V (s : State) : (s.halt).V = s.V := rfl
@[simp] theorem State.halt_I (s : State) : (s.halt).I = s.I := rfl
@[simp] theorem State.halt_pc (s : State) : (s.halt).pc = s.pc := rfl
@[simp] theorem State.halt_stack (s : State) : (s.halt).stack = s.stack := rfl
@[simp] theorem State.halt_sp (s : State) : (s.halt).sp = s.sp := rfl
@[simp] theorem State.halt_DT (s : State) : (s.halt).DT = s.DT := rfl
@[simp] theorem State.halt_ST (s : State) : (s.halt).ST = s.ST := rfl
@[simp] theorem State.halt_mem (s : State) : (s.halt).mem = s.mem := rfl
@[simp] theorem State.halt_disp (s : State) : (s.halt).disp = s.disp := rfl
@[simp] theorem State.halt_key (s : State) : (s.halt).key = s.key := rfl
@[simp] theorem State.halt_wait (s : State) : (s.halt).wait = s.wait := rfl
@[simp] theorem State.halt_kev (s : State) : (s.halt).kev = s.kev := rfl
@[simp] theorem State.halt_status (s : State) : (s.halt).status = .halted := rfl
@[simp] theorem State.halt_draws (s : State) : (s.halt).draws = s.draws := rfl
@[simp] theorem State.halt_reg (s : State) (j : RegIdx) : (s.halt).reg j = s.reg j := rfl

/-! ### State.enterFault -/

@[simp] theorem State.enterFault_V (s : State) (k : FaultKind) (w : Word) : (s.enterFault k w).V = s.V := rfl
@[simp] theorem State.enterFault_I (s : State) (k : FaultKind) (w : Word) : (s.enterFault k w).I = s.I := rfl
@[simp] theorem State.enterFault_pc (s : State) (k : FaultKind) (w : Word) : (s.enterFault k w).pc = s.pc - 2#16 := rfl
@[simp] theorem State.enterFault_stack (s : State) (k : FaultKind) (w : Word) : (s.enterFault k w).stack = s.stack := rfl
@[simp] theorem State.enterFault_sp (s : State) (k : FaultKind) (w : Word) : (s.enterFault k w).sp = s.sp := rfl
@[simp] theorem State.enterFault_DT (s : State) (k : FaultKind) (w : Word) : (s.enterFault k w).DT = s.DT := rfl
@[simp] theorem State.enterFault_ST (s : State) (k : FaultKind) (w : Word) : (s.enterFault k w).ST = s.ST := rfl
@[simp] theorem State.enterFault_mem (s : State) (k : FaultKind) (w : Word) : (s.enterFault k w).mem = s.mem := rfl
@[simp] theorem State.enterFault_disp (s : State) (k : FaultKind) (w : Word) : (s.enterFault k w).disp = s.disp := rfl
@[simp] theorem State.enterFault_key (s : State) (k : FaultKind) (w : Word) : (s.enterFault k w).key = s.key := rfl
@[simp] theorem State.enterFault_wait (s : State) (k : FaultKind) (w : Word) : (s.enterFault k w).wait = s.wait := rfl
@[simp] theorem State.enterFault_kev (s : State) (k : FaultKind) (w : Word) : (s.enterFault k w).kev = s.kev := rfl
@[simp] theorem State.enterFault_status (s : State) (k : FaultKind) (w : Word) : (s.enterFault k w).status = .faulted k (s.pc - 2#16) w := rfl
@[simp] theorem State.enterFault_draws (s : State) (k : FaultKind) (w : Word) : (s.enterFault k w).draws = s.draws := rfl
@[simp] theorem State.enterFault_reg (s : State) (k : FaultKind) (w : Word) (j : RegIdx) : (s.enterFault k w).reg j = s.reg j := rfl

/-! ### State.setRegAndFlag -/

@[simp] theorem State.setRegAndFlag_I (s : State) (x : RegIdx) (b : Byte) (c : Bool) : (s.setRegAndFlag x b c).I = s.I := rfl
@[simp] theorem State.setRegAndFlag_pc (s : State) (x : RegIdx) (b : Byte) (c : Bool) : (s.setRegAndFlag x b c).pc = s.pc := rfl
@[simp] theorem State.setRegAndFlag_stack (s : State) (x : RegIdx) (b : Byte) (c : Bool) : (s.setRegAndFlag x b c).stack = s.stack := rfl
@[simp] theorem State.setRegAndFlag_sp (s : State) (x : RegIdx) (b : Byte) (c : Bool) : (s.setRegAndFlag x b c).sp = s.sp := rfl
@[simp] theorem State.setRegAndFlag_DT (s : State) (x : RegIdx) (b : Byte) (c : Bool) : (s.setRegAndFlag x b c).DT = s.DT := rfl
@[simp] theorem State.setRegAndFlag_ST (s : State) (x : RegIdx) (b : Byte) (c : Bool) : (s.setRegAndFlag x b c).ST = s.ST := rfl
@[simp] theorem State.setRegAndFlag_mem (s : State) (x : RegIdx) (b : Byte) (c : Bool) : (s.setRegAndFlag x b c).mem = s.mem := rfl
@[simp] theorem State.setRegAndFlag_disp (s : State) (x : RegIdx) (b : Byte) (c : Bool) : (s.setRegAndFlag x b c).disp = s.disp := rfl
@[simp] theorem State.setRegAndFlag_key (s : State) (x : RegIdx) (b : Byte) (c : Bool) : (s.setRegAndFlag x b c).key = s.key := rfl
@[simp] theorem State.setRegAndFlag_wait (s : State) (x : RegIdx) (b : Byte) (c : Bool) : (s.setRegAndFlag x b c).wait = s.wait := rfl
@[simp] theorem State.setRegAndFlag_kev (s : State) (x : RegIdx) (b : Byte) (c : Bool) : (s.setRegAndFlag x b c).kev = s.kev := rfl
@[simp] theorem State.setRegAndFlag_status (s : State) (x : RegIdx) (b : Byte) (c : Bool) : (s.setRegAndFlag x b c).status = s.status := rfl
@[simp] theorem State.setRegAndFlag_draws (s : State) (x : RegIdx) (b : Byte) (c : Bool) : (s.setRegAndFlag x b c).draws = s.draws := rfl

/-! ### State.placeWord -/

@[simp] theorem State.placeWord_V (s : State) (w : Word) : (s.placeWord w).V = s.V := rfl
@[simp] theorem State.placeWord_I (s : State) (w : Word) : (s.placeWord w).I = s.I := rfl
@[simp] theorem State.placeWord_pc (s : State) (w : Word) : (s.placeWord w).pc = s.pc := rfl
@[simp] theorem State.placeWord_stack (s : State) (w : Word) : (s.placeWord w).stack = s.stack := rfl
@[simp] theorem State.placeWord_sp (s : State) (w : Word) : (s.placeWord w).sp = s.sp := rfl
@[simp] theorem State.placeWord_DT (s : State) (w : Word) : (s.placeWord w).DT = s.DT := rfl
@[simp] theorem State.placeWord_ST (s : State) (w : Word) : (s.placeWord w).ST = s.ST := rfl
@[simp] theorem State.placeWord_mem (s : State) (w : Word) : (s.placeWord w).mem = Memory.writeBytes s.mem s.pc.toNat (bytesOfWord w) := rfl
@[simp] theorem State.placeWord_disp (s : State) (w : Word) : (s.placeWord w).disp = s.disp := rfl
@[simp] theorem State.placeWord_key (s : State) (w : Word) : (s.placeWord w).key = s.key := rfl
@[simp] theorem State.placeWord_wait (s : State) (w : Word) : (s.placeWord w).wait = s.wait := rfl
@[simp] theorem State.placeWord_kev (s : State) (w : Word) : (s.placeWord w).kev = s.kev := rfl
@[simp] theorem State.placeWord_status (s : State) (w : Word) : (s.placeWord w).status = s.status := rfl
@[simp] theorem State.placeWord_draws (s : State) (w : Word) : (s.placeWord w).draws = s.draws := rfl
@[simp] theorem State.placeWord_reg (s : State) (w : Word) (j : RegIdx) : (s.placeWord w).reg j = s.reg j := rfl

/-! ### State.writeKey -/

@[simp] theorem State.writeKey_V (s : State) (k : KeyIdx) (p : Bool) : (s.writeKey k p).V = s.V := rfl
@[simp] theorem State.writeKey_I (s : State) (k : KeyIdx) (p : Bool) : (s.writeKey k p).I = s.I := rfl
@[simp] theorem State.writeKey_pc (s : State) (k : KeyIdx) (p : Bool) : (s.writeKey k p).pc = s.pc := rfl
@[simp] theorem State.writeKey_stack (s : State) (k : KeyIdx) (p : Bool) : (s.writeKey k p).stack = s.stack := rfl
@[simp] theorem State.writeKey_sp (s : State) (k : KeyIdx) (p : Bool) : (s.writeKey k p).sp = s.sp := rfl
@[simp] theorem State.writeKey_DT (s : State) (k : KeyIdx) (p : Bool) : (s.writeKey k p).DT = s.DT := rfl
@[simp] theorem State.writeKey_ST (s : State) (k : KeyIdx) (p : Bool) : (s.writeKey k p).ST = s.ST := rfl
@[simp] theorem State.writeKey_mem (s : State) (k : KeyIdx) (p : Bool) : (s.writeKey k p).mem = s.mem := rfl
@[simp] theorem State.writeKey_disp (s : State) (k : KeyIdx) (p : Bool) : (s.writeKey k p).disp = s.disp := rfl
@[simp] theorem State.writeKey_key (s : State) (k : KeyIdx) (p : Bool) : (s.writeKey k p).key = s.key.set k.toNat p k.isLt := rfl
@[simp] theorem State.writeKey_wait (s : State) (k : KeyIdx) (p : Bool) : (s.writeKey k p).wait = s.wait := rfl
@[simp] theorem State.writeKey_kev (s : State) (k : KeyIdx) (p : Bool) : (s.writeKey k p).kev = s.kev := rfl
@[simp] theorem State.writeKey_status (s : State) (k : KeyIdx) (p : Bool) : (s.writeKey k p).status = s.status := rfl
@[simp] theorem State.writeKey_draws (s : State) (k : KeyIdx) (p : Bool) : (s.writeKey k p).draws = s.draws := rfl
@[simp] theorem State.writeKey_reg (s : State) (k : KeyIdx) (p : Bool) (j : RegIdx) : (s.writeKey k p).reg j = s.reg j := rfl

/-! ### State.latchKey -/

@[simp] theorem State.latchKey_V (s : State) (k : KeyIdx) : (s.latchKey k).V = s.V := rfl
@[simp] theorem State.latchKey_I (s : State) (k : KeyIdx) : (s.latchKey k).I = s.I := rfl
@[simp] theorem State.latchKey_pc (s : State) (k : KeyIdx) : (s.latchKey k).pc = s.pc := rfl
@[simp] theorem State.latchKey_stack (s : State) (k : KeyIdx) : (s.latchKey k).stack = s.stack := rfl
@[simp] theorem State.latchKey_sp (s : State) (k : KeyIdx) : (s.latchKey k).sp = s.sp := rfl
@[simp] theorem State.latchKey_DT (s : State) (k : KeyIdx) : (s.latchKey k).DT = s.DT := rfl
@[simp] theorem State.latchKey_ST (s : State) (k : KeyIdx) : (s.latchKey k).ST = s.ST := rfl
@[simp] theorem State.latchKey_mem (s : State) (k : KeyIdx) : (s.latchKey k).mem = s.mem := rfl
@[simp] theorem State.latchKey_disp (s : State) (k : KeyIdx) : (s.latchKey k).disp = s.disp := rfl
@[simp] theorem State.latchKey_key (s : State) (k : KeyIdx) : (s.latchKey k).key = s.key := rfl
@[simp] theorem State.latchKey_wait (s : State) (k : KeyIdx) : (s.latchKey k).wait = s.wait := rfl
@[simp] theorem State.latchKey_kev (s : State) (k : KeyIdx) : (s.latchKey k).kev = some k := rfl
@[simp] theorem State.latchKey_status (s : State) (k : KeyIdx) : (s.latchKey k).status = s.status := rfl
@[simp] theorem State.latchKey_draws (s : State) (k : KeyIdx) : (s.latchKey k).draws = s.draws := rfl
@[simp] theorem State.latchKey_reg (s : State) (k : KeyIdx) (j : RegIdx) : (s.latchKey k).reg j = s.reg j := rfl

/-! ### State.tick -/

@[simp] theorem State.tick_V (s : State) : (s.tick).V = s.V := rfl
@[simp] theorem State.tick_I (s : State) : (s.tick).I = s.I := rfl
@[simp] theorem State.tick_pc (s : State) : (s.tick).pc = s.pc := rfl
@[simp] theorem State.tick_stack (s : State) : (s.tick).stack = s.stack := rfl
@[simp] theorem State.tick_sp (s : State) : (s.tick).sp = s.sp := rfl
@[simp] theorem State.tick_DT (s : State) : (s.tick).DT = countDown s.DT := rfl
@[simp] theorem State.tick_ST (s : State) : (s.tick).ST = countDown s.ST := rfl
@[simp] theorem State.tick_mem (s : State) : (s.tick).mem = s.mem := rfl
@[simp] theorem State.tick_disp (s : State) : (s.tick).disp = s.disp := rfl
@[simp] theorem State.tick_key (s : State) : (s.tick).key = s.key := rfl
@[simp] theorem State.tick_wait (s : State) : (s.tick).wait = s.wait := rfl
@[simp] theorem State.tick_kev (s : State) : (s.tick).kev = s.kev := rfl
@[simp] theorem State.tick_status (s : State) : (s.tick).status = s.status := rfl
@[simp] theorem State.tick_draws (s : State) : (s.tick).draws = s.draws := rfl
@[simp] theorem State.tick_reg (s : State) (j : RegIdx) : (s.tick).reg j = s.reg j := rfl

/-! ### State.skipIf -/

@[simp] theorem State.skipIf_V (s : State) (c : Bool) : (s.skipIf c).V = s.V := by cases c <;> rfl
@[simp] theorem State.skipIf_I (s : State) (c : Bool) : (s.skipIf c).I = s.I := by cases c <;> rfl
@[simp] theorem State.skipIf_pc (s : State) (c : Bool) : (s.skipIf c).pc = if c then s.pc + 2#16 else s.pc := by cases c <;> rfl
@[simp] theorem State.skipIf_stack (s : State) (c : Bool) : (s.skipIf c).stack = s.stack := by cases c <;> rfl
@[simp] theorem State.skipIf_sp (s : State) (c : Bool) : (s.skipIf c).sp = s.sp := by cases c <;> rfl
@[simp] theorem State.skipIf_DT (s : State) (c : Bool) : (s.skipIf c).DT = s.DT := by cases c <;> rfl
@[simp] theorem State.skipIf_ST (s : State) (c : Bool) : (s.skipIf c).ST = s.ST := by cases c <;> rfl
@[simp] theorem State.skipIf_mem (s : State) (c : Bool) : (s.skipIf c).mem = s.mem := by cases c <;> rfl
@[simp] theorem State.skipIf_disp (s : State) (c : Bool) : (s.skipIf c).disp = s.disp := by cases c <;> rfl
@[simp] theorem State.skipIf_key (s : State) (c : Bool) : (s.skipIf c).key = s.key := by cases c <;> rfl
@[simp] theorem State.skipIf_wait (s : State) (c : Bool) : (s.skipIf c).wait = s.wait := by cases c <;> rfl
@[simp] theorem State.skipIf_kev (s : State) (c : Bool) : (s.skipIf c).kev = s.kev := by cases c <;> rfl
@[simp] theorem State.skipIf_status (s : State) (c : Bool) : (s.skipIf c).status = s.status := by cases c <;> rfl
@[simp] theorem State.skipIf_draws (s : State) (c : Bool) : (s.skipIf c).draws = s.draws := by cases c <;> rfl
@[simp] theorem State.skipIf_reg (s : State) (c : Bool) (j : RegIdx) : (s.skipIf c).reg j = s.reg j := by cases c <;> rfl

/-! ### State.loadRegs -/

@[simp] theorem State.loadRegs_I (s : State) (k : Nat) (bs : List Byte) : (s.loadRegs k bs).I = s.I := by
  induction bs generalizing s k with
  | nil => rfl
  | cons b bs ih => exact ih _ _
@[simp] theorem State.loadRegs_pc (s : State) (k : Nat) (bs : List Byte) : (s.loadRegs k bs).pc = s.pc := by
  induction bs generalizing s k with
  | nil => rfl
  | cons b bs ih => exact ih _ _
@[simp] theorem State.loadRegs_stack (s : State) (k : Nat) (bs : List Byte) : (s.loadRegs k bs).stack = s.stack := by
  induction bs generalizing s k with
  | nil => rfl
  | cons b bs ih => exact ih _ _
@[simp] theorem State.loadRegs_sp (s : State) (k : Nat) (bs : List Byte) : (s.loadRegs k bs).sp = s.sp := by
  induction bs generalizing s k with
  | nil => rfl
  | cons b bs ih => exact ih _ _
@[simp] theorem State.loadRegs_DT (s : State) (k : Nat) (bs : List Byte) : (s.loadRegs k bs).DT = s.DT := by
  induction bs generalizing s k with
  | nil => rfl
  | cons b bs ih => exact ih _ _
@[simp] theorem State.loadRegs_ST (s : State) (k : Nat) (bs : List Byte) : (s.loadRegs k bs).ST = s.ST := by
  induction bs generalizing s k with
  | nil => rfl
  | cons b bs ih => exact ih _ _
@[simp] theorem State.loadRegs_mem (s : State) (k : Nat) (bs : List Byte) : (s.loadRegs k bs).mem = s.mem := by
  induction bs generalizing s k with
  | nil => rfl
  | cons b bs ih => exact ih _ _
@[simp] theorem State.loadRegs_disp (s : State) (k : Nat) (bs : List Byte) : (s.loadRegs k bs).disp = s.disp := by
  induction bs generalizing s k with
  | nil => rfl
  | cons b bs ih => exact ih _ _
@[simp] theorem State.loadRegs_key (s : State) (k : Nat) (bs : List Byte) : (s.loadRegs k bs).key = s.key := by
  induction bs generalizing s k with
  | nil => rfl
  | cons b bs ih => exact ih _ _
@[simp] theorem State.loadRegs_wait (s : State) (k : Nat) (bs : List Byte) : (s.loadRegs k bs).wait = s.wait := by
  induction bs generalizing s k with
  | nil => rfl
  | cons b bs ih => exact ih _ _
@[simp] theorem State.loadRegs_kev (s : State) (k : Nat) (bs : List Byte) : (s.loadRegs k bs).kev = s.kev := by
  induction bs generalizing s k with
  | nil => rfl
  | cons b bs ih => exact ih _ _
@[simp] theorem State.loadRegs_status (s : State) (k : Nat) (bs : List Byte) : (s.loadRegs k bs).status = s.status := by
  induction bs generalizing s k with
  | nil => rfl
  | cons b bs ih => exact ih _ _
@[simp] theorem State.loadRegs_draws (s : State) (k : Nat) (bs : List Byte) : (s.loadRegs k bs).draws = s.draws := by
  induction bs generalizing s k with
  | nil => rfl
  | cons b bs ih => exact ih _ _

/-! ### State.keyWaitStep -/

@[simp] theorem State.keyWaitStep_I (s : State) (x : RegIdx) : (s.keyWaitStep x).I = s.I := by unfold State.keyWaitStep; split <;> rfl
@[simp] theorem State.keyWaitStep_pc (s : State) (x : RegIdx) : (s.keyWaitStep x).pc = s.pc := by unfold State.keyWaitStep; split <;> rfl
@[simp] theorem State.keyWaitStep_stack (s : State) (x : RegIdx) : (s.keyWaitStep x).stack = s.stack := by unfold State.keyWaitStep; split <;> rfl
@[simp] theorem State.keyWaitStep_sp (s : State) (x : RegIdx) : (s.keyWaitStep x).sp = s.sp := by unfold State.keyWaitStep; split <;> rfl
@[simp] theorem State.keyWaitStep_DT (s : State) (x : RegIdx) : (s.keyWaitStep x).DT = s.DT := by unfold State.keyWaitStep; split <;> rfl
@[simp] theorem State.keyWaitStep_ST (s : State) (x : RegIdx) : (s.keyWaitStep x).ST = s.ST := by unfold State.keyWaitStep; split <;> rfl
@[simp] theorem State.keyWaitStep_mem (s : State) (x : RegIdx) : (s.keyWaitStep x).mem = s.mem := by unfold State.keyWaitStep; split <;> rfl
@[simp] theorem State.keyWaitStep_disp (s : State) (x : RegIdx) : (s.keyWaitStep x).disp = s.disp := by unfold State.keyWaitStep; split <;> rfl
@[simp] theorem State.keyWaitStep_key (s : State) (x : RegIdx) : (s.keyWaitStep x).key = s.key := by unfold State.keyWaitStep; split <;> rfl
@[simp] theorem State.keyWaitStep_status (s : State) (x : RegIdx) : (s.keyWaitStep x).status = s.status := by unfold State.keyWaitStep; split <;> rfl
@[simp] theorem State.keyWaitStep_draws (s : State) (x : RegIdx) : (s.keyWaitStep x).draws = s.draws := by unfold State.keyWaitStep; split <;> rfl

/-! ### State.setKey -/

@[simp] theorem State.setKeyIdx_V (s : State) (k : KeyIdx) (p : Bool) : (s.setKeyIdx k p).V = s.V := by unfold State.setKeyIdx; split <;> rfl
@[simp] theorem State.setKey_V (s : State) (k : Nat) (p : Bool) : (s.setKey k p).V = s.V := by unfold State.setKey; split <;> simp
@[simp] theorem State.setKeyIdx_I (s : State) (k : KeyIdx) (p : Bool) : (s.setKeyIdx k p).I = s.I := by unfold State.setKeyIdx; split <;> rfl
@[simp] theorem State.setKey_I (s : State) (k : Nat) (p : Bool) : (s.setKey k p).I = s.I := by unfold State.setKey; split <;> simp
@[simp] theorem State.setKeyIdx_pc (s : State) (k : KeyIdx) (p : Bool) : (s.setKeyIdx k p).pc = s.pc := by unfold State.setKeyIdx; split <;> rfl
@[simp] theorem State.setKey_pc (s : State) (k : Nat) (p : Bool) : (s.setKey k p).pc = s.pc := by unfold State.setKey; split <;> simp
@[simp] theorem State.setKeyIdx_stack (s : State) (k : KeyIdx) (p : Bool) : (s.setKeyIdx k p).stack = s.stack := by unfold State.setKeyIdx; split <;> rfl
@[simp] theorem State.setKey_stack (s : State) (k : Nat) (p : Bool) : (s.setKey k p).stack = s.stack := by unfold State.setKey; split <;> simp
@[simp] theorem State.setKeyIdx_sp (s : State) (k : KeyIdx) (p : Bool) : (s.setKeyIdx k p).sp = s.sp := by unfold State.setKeyIdx; split <;> rfl
@[simp] theorem State.setKey_sp (s : State) (k : Nat) (p : Bool) : (s.setKey k p).sp = s.sp := by unfold State.setKey; split <;> simp
@[simp] theorem State.setKeyIdx_DT (s : State) (k : KeyIdx) (p : Bool) : (s.setKeyIdx k p).DT = s.DT := by unfold State.setKeyIdx; split <;> rfl
@[simp] theorem State.setKey_DT (s : State) (k : Nat) (p : Bool) : (s.setKey k p).DT = s.DT := by unfold State.setKey; split <;> simp
@[simp] theorem State.setKeyIdx_ST (s : State) (k : KeyIdx) (p : Bool) : (s.setKeyIdx k p).ST = s.ST := by unfold State.setKeyIdx; split <;> rfl
@[simp] theorem State.setKey_ST (s : State) (k : Nat) (p : Bool) : (s.setKey k p).ST = s.ST := by unfold State.setKey; split <;> simp
@[simp] theorem State.setKeyIdx_mem (s : State) (k : KeyIdx) (p : Bool) : (s.setKeyIdx k p).mem = s.mem := by unfold State.setKeyIdx; split <;> rfl
@[simp] theorem State.setKey_mem (s : State) (k : Nat) (p : Bool) : (s.setKey k p).mem = s.mem := by unfold State.setKey; split <;> simp
@[simp] theorem State.setKeyIdx_disp (s : State) (k : KeyIdx) (p : Bool) : (s.setKeyIdx k p).disp = s.disp := by unfold State.setKeyIdx; split <;> rfl
@[simp] theorem State.setKey_disp (s : State) (k : Nat) (p : Bool) : (s.setKey k p).disp = s.disp := by unfold State.setKey; split <;> simp
@[simp] theorem State.setKeyIdx_wait (s : State) (k : KeyIdx) (p : Bool) : (s.setKeyIdx k p).wait = s.wait := by unfold State.setKeyIdx; split <;> rfl
@[simp] theorem State.setKey_wait (s : State) (k : Nat) (p : Bool) : (s.setKey k p).wait = s.wait := by unfold State.setKey; split <;> simp
@[simp] theorem State.setKeyIdx_status (s : State) (k : KeyIdx) (p : Bool) : (s.setKeyIdx k p).status = s.status := by unfold State.setKeyIdx; split <;> rfl
@[simp] theorem State.setKey_status (s : State) (k : Nat) (p : Bool) : (s.setKey k p).status = s.status := by unfold State.setKey; split <;> simp
@[simp] theorem State.setKeyIdx_draws (s : State) (k : KeyIdx) (p : Bool) : (s.setKeyIdx k p).draws = s.draws := by unfold State.setKeyIdx; split <;> rfl
@[simp] theorem State.setKey_draws (s : State) (k : Nat) (p : Bool) : (s.setKey k p).draws = s.draws := by unfold State.setKey; split <;> simp
@[simp] theorem State.setKeyIdx_reg (s : State) (k : KeyIdx) (p : Bool) (j : RegIdx) : (s.setKeyIdx k p).reg j = s.reg j := by unfold State.setKeyIdx; split <;> rfl
@[simp] theorem State.setKey_reg (s : State) (k : Nat) (p : Bool) (j : RegIdx) : (s.setKey k p).reg j = s.reg j := by unfold State.setKey; split <;> simp

/-! ### Register reads after register writes -/

@[simp] theorem State.reg_setReg (s : State) (x : RegIdx) (b : Byte) (j : RegIdx) :
    (s.setReg x b).reg j = if x = j then b else s.reg j := by
  simp [State.reg, State.setReg, Vector.getElem_set, BitVec.toNat_inj]

theorem State.reg_setReg_self (s : State) (x : RegIdx) (b : Byte) : (s.setReg x b).reg x = b := by
  simp

theorem State.reg_setReg_of_ne (s : State) (x : RegIdx) (b : Byte) {j : RegIdx} (h : j ≠ x) :
    (s.setReg x b).reg j = s.reg j := by
  simp [Ne.symm h]

/-- The flag is written last: VF holds it whatever the destination (R109). -/
@[simp] theorem State.reg_setRegAndFlag (s : State) (x : RegIdx) (b : Byte) (c : Bool) (j : RegIdx) :
    (s.setRegAndFlag x b c).reg j = if vF = j then flagByte c else if x = j then b else s.reg j := by
  simp [State.setRegAndFlag]

end Sys2Proof.Machine
end

