-- ==== Sys2Proof/Laws/Ops.lean ====
section
/-! SUPPORT. One lemma for each shared operation, saying once what it can answer; the meanings and their provers cite these. -/

namespace Sys2Proof.Machine

/-! ### Values -/

@[simp] theorem zextAddr_toNat (nnn : Addr) : (zextAddr nnn).toNat = nnn.toNat := by
  have := nnn.isLt
  simp [zextAddr]
  omega

@[simp] theorem zextByte_toNat (b : Byte) : (zextByte b).toNat = b.toNat := by
  have := b.isLt
  simp [zextByte]
  omega

@[simp] theorem keyByte_toNat (k : KeyIdx) : (keyByte k).toNat = k.toNat := by
  have := k.isLt
  simp [keyByte]
  omega

@[simp] theorem flagByte_toNat (c : Bool) : (flagByte c).toNat = if c then 1 else 0 := by
  cases c <;> rfl

/-- Masking to 12 bits is the remainder modulo 4096 (R24). -/
theorem and_0x0FFF_toNat (v : Word) : (v &&& 0x0FFF#16).toNat = v.toNat % 4096 := by
  rw [BitVec.toNat_and]
  exact Nat.and_two_pow_sub_one_eq_mod v.toNat 12

/-- The low nibble of a byte is its remainder modulo 16 (R192). -/
theorem and_0x0F_toNat (v : Byte) : (v &&& 0x0F#8).toNat = v.toNat % 16 := by
  rw [BitVec.toNat_and]
  exact Nat.and_two_pow_sub_one_eq_mod v.toNat 4

/-- "every write is I <- v & 0x0FFF, so I <= 0x0FFF always holds" (R24). -/
theorem State.setI_le (s : State) (v : Word) : (s.setI v).I.toNat ≤ 0x0FFF := by
  rw [State.setI_I, and_0x0FFF_toNat]
  omega

@[simp] theorem decimalDigits_length (v : Byte) : (decimalDigits v).length = 3 := rfl

/-- A register number from its value as a number (R72). -/
@[simp] theorem ofNat_toNat_regIdx (j : RegIdx) : BitVec.ofNat 4 j.toNat = j := by
  simp

/-! ### pc and faults -/

/-- Fault entry after the advance: pc is back at the instruction and only status differs (R254). -/
theorem State.advance_enterFault (s : State) (k : FaultKind) (w : Word) :
    s.advance.enterFault k w = { s with status := .faulted k s.pc w } := by
  have h : s.pc + 2#16 - 2#16 = s.pc := BitVec.add_sub_cancel _ _
  simp [State.enterFault, State.advance, State.setPc, State.setStatus, State.instrAddr, h]

/-- Fault entry changes pc and status only (R254). -/
theorem State.enterFault_eq (s : State) (k : FaultKind) (w : Word) :
    s.enterFault k w = { s with pc := s.pc - 2#16, status := .faulted k (s.pc - 2#16) w } := rfl

theorem State.skipIf_eq (s : State) (c : Bool) : s.skipIf c = { s with pc := (s.skipIf c).pc } := by
  cases c <;> rfl

/-! ### Return stack (R29) -/

theorem State.push_of_lt (s : State) (v : Word) (h : s.sp.val < 16) :
    s.push v = some { s with stack := s.stack.set s.sp.val v h, sp := ⟨s.sp.val + 1, Nat.succ_lt_succ h⟩ } := by
  simp [State.push, h]

theorem State.push_of_full (s : State) (v : Word) (h : s.sp.val = 16) : s.push v = none := by
  simp [State.push, h]

/-- What a push can answer: one more entry, or nothing when sixteen are in use. -/
theorem State.push_cases (s : State) (v : Word) :
    (∃ h : s.sp.val < 16,
      s.push v = some { s with stack := s.stack.set s.sp.val v h, sp := ⟨s.sp.val + 1, Nat.succ_lt_succ h⟩ }) ∨
    (s.sp.val = 16 ∧ s.push v = none) := by
  by_cases h : s.sp.val < 16
  · exact .inl ⟨h, s.push_of_lt v h⟩
  · have : s.sp.val = 16 := by
      have := s.sp.isLt
      omega
    exact .inr ⟨this, s.push_of_full v this⟩

theorem State.pop_of_empty (s : State) (h : s.sp.val = 0) : s.pop = none := by
  simp [State.pop, h]

theorem State.pop_of_succ (s : State) {k : Nat} (hk : k < 16) (h : s.sp.val = k + 1) :
    s.pop = some (s.stack[k], { s with sp := ⟨k, Nat.lt_succ_of_lt hk⟩ }) := by
  have hpos : 0 < s.sp.val := by omega
  have hsub : s.sp.val - 1 = k := by omega
  simp [State.pop, hpos, hsub]

/-- What a pop can answer: the top entry with one entry less in use, or nothing when none is. -/
theorem State.pop_cases (s : State) :
    (s.sp.val = 0 ∧ s.pop = none) ∨
    ∃ (k : Nat) (hk : k < 16), s.sp.val = k + 1 ∧
      s.pop = some (s.stack[k], { s with sp := ⟨k, Nat.lt_succ_of_lt hk⟩ }) := by
  rcases Nat.eq_zero_or_pos s.sp.val with h | h
  · exact .inl ⟨h, s.pop_of_empty h⟩
  · have hk : s.sp.val - 1 < 16 := by
      have := s.sp.isLt
      omega
    have hs : s.sp.val = (s.sp.val - 1) + 1 := by omega
    exact .inr ⟨s.sp.val - 1, hk, hs, s.pop_of_succ hk hs⟩

/-! ### Accesses at I (R55) -/

/-- What a read at I can answer: the bytes in rising order, or nothing when the range passes the end of memory. -/
theorem State.readAtI_cases (s : State) (n : Nat) :
    (s.I.toNat + n ≤ Config.memSize ∧
      s.readAtI n = some ((List.range n).map fun k => Memory.byteAt s.mem (s.I.toNat + k))) ∨
    (Config.memSize < s.I.toNat + n ∧ s.readAtI n = none) := by
  by_cases h : s.I.toNat + n ≤ Config.memSize
  · exact .inl ⟨h, Memory.readRange_eq_some.mpr ⟨h, rfl⟩⟩
  · exact .inr ⟨by omega, Memory.readRange_eq_none.mpr (by omega)⟩

/-- What a write at I can answer: memory with the bytes written, or nothing when the range passes the end of memory. -/
theorem State.writeAtI_cases (s : State) (bs : List Byte) :
    (s.I.toNat + bs.length ≤ Config.memSize ∧ s.writeAtI bs = some (Memory.writeBytes s.mem s.I.toNat bs)) ∨
    (Config.memSize < s.I.toNat + bs.length ∧ s.writeAtI bs = none) := by
  by_cases h : s.I.toNat + bs.length ≤ Config.memSize
  · exact .inl ⟨h, Memory.writeRange_eq_some.mpr ⟨h, rfl⟩⟩
  · exact .inr ⟨by omega, Memory.writeRange_eq_none.mpr (by omega)⟩

@[simp] theorem State.regsTo_length (s : State) (x : RegIdx) : (s.regsTo x).length = x.toNat + 1 := by
  simp [State.regsTo]

/-- The k-th byte stored by LD [I], Vx is V[k] (R197). -/
theorem State.getElem_regsTo (s : State) (x j : RegIdx) (h : j.toNat < (s.regsTo x).length) :
    (s.regsTo x)[j.toNat] = s.reg j := by
  simp [State.regsTo]

/-- Loading bytes from V[k] on: each named register holds its byte, every other one is as before (R198). -/
theorem State.reg_loadRegs (s : State) (k : Nat) (bs : List Byte) (hk : k + bs.length ≤ 16) (j : RegIdx) :
    (s.loadRegs k bs).reg j =
      if h : k ≤ j.toNat ∧ j.toNat < k + bs.length then bs[j.toNat - k]'(by omega) else s.reg j := by
  induction bs generalizing s k with
  | nil =>
    rw [dif_neg (by simp)]
    rfl
  | cons b bs ih =>
    simp only [List.length_cons] at hk
    have hkk : (BitVec.ofNat 4 k).toNat = k := by
      rw [BitVec.toNat_ofNat]
      exact Nat.mod_eq_of_lt (by omega)
    have hj : BitVec.ofNat 4 k = j ↔ k = j.toNat := by
      rw [← BitVec.toNat_inj, hkk]
    show ((s.setReg (BitVec.ofNat 4 k) b).loadRegs (k + 1) bs).reg j = _
    rw [ih _ _ (by omega), State.reg_setReg]
    by_cases hkj : k = j.toNat
    · have h1 : ¬(k + 1 ≤ j.toNat ∧ j.toNat < k + 1 + bs.length) := by omega
      have h2 : k ≤ j.toNat ∧ j.toNat < k + (b :: bs).length := by simp; omega
      rw [dif_neg h1, dif_pos h2, if_pos (hj.mpr hkj)]
      simp [hkj]
    · by_cases h1 : k + 1 ≤ j.toNat ∧ j.toNat < k + 1 + bs.length
      · have h2 : k ≤ j.toNat ∧ j.toNat < k + (b :: bs).length := by simp; omega
        have h3 : j.toNat - k = (j.toNat - (k + 1)) + 1 := by omega
        rw [dif_pos h1, dif_pos h2]
        simp [h3]
      · have h2 : ¬(k ≤ j.toNat ∧ j.toNat < k + (b :: bs).length) := by simp; omega
        rw [dif_neg h1, dif_neg h2, if_neg (fun h => hkj (hj.mp h))]

/-! ### Keys (R233) -/

/-- A register value that names a key tests that key. -/
theorem State.pressed_of_key (s : State) (v : Byte) (k : KeyIdx) (h : v.toNat = k.toNat) : s.pressed v = s.keyDown k := by
  have hk : k.toNat < 16 := k.isLt
  simp only [State.pressed, State.keyDown, h, dif_pos hk]

/-- A register value above 0x0F names no key. -/
theorem State.pressed_of_no_key (s : State) (v : Byte) (h : 0x0F < v.toNat) : s.pressed v = false := by
  have : ¬ v.toNat < 16 := by omega
  simp [State.pressed, this]

/-! ### Fetch (R53, R102) -/

/-- What a fetch can answer: the two bytes at pc, the lower address in bits 15-8, or nothing when pc > 0x0FFE. -/
theorem State.fetchWord_cases (s : State) :
    (s.pc.toNat ≤ 0x0FFE ∧
      s.fetchWord = some (wordOfBytes (Memory.byteAt s.mem s.pc.toNat) (Memory.byteAt s.mem (s.pc.toNat + 1)))) ∨
    (0x0FFE < s.pc.toNat ∧ s.fetchWord = none) := by
  by_cases h : s.pc.toNat ≤ 0x0FFE
  · refine .inl ⟨h, ?_⟩
    have hr : Memory.readRange s.mem s.pc.toNat 2 =
        some [Memory.byteAt s.mem s.pc.toNat, Memory.byteAt s.mem (s.pc.toNat + 1)] :=
      Memory.readRange_eq_some.mpr ⟨by show _ ≤ 4096; omega, by simp [List.range_succ]⟩
    simp [State.fetchWord, hr]
  · refine .inr ⟨by omega, ?_⟩
    have hr : Memory.readRange s.mem s.pc.toNat 2 = none := Memory.readRange_eq_none.mpr (by show 4096 < _; omega)
    simp [State.fetchWord, hr]

theorem State.fetchWord_of_le (s : State) (h : s.pc.toNat ≤ 0x0FFE) :
    s.fetchWord = some (wordOfBytes (Memory.byteAt s.mem s.pc.toNat) (Memory.byteAt s.mem (s.pc.toNat + 1))) := by
  rcases s.fetchWord_cases with h' | h'
  · exact h'.2
  · omega

theorem State.fetchWord_of_lt (s : State) (h : 0x0FFE < s.pc.toNat) : s.fetchWord = none := by
  rcases s.fetchWord_cases with h' | h'
  · omega
  · exact h'.2

/-- A fetch depends on pc and memory alone. -/
theorem State.fetchWord_congr {s t : State} (hpc : t.pc = s.pc) (hm : t.mem = s.mem) : t.fetchWord = s.fetchWord := by
  simp [State.fetchWord, hpc, hm]

end Sys2Proof.Machine
end

