-- ==== Sys2Proof/Laws/Display.lean ====
section
/-! SUPPORT. The sprite compositor, said once: drawing is the flip of a list of pixels in which none stands twice (44_display.md R213), so each
listed pixel is inverted once and the flag says whether one of them was on. -/

namespace Sys2Proof.Machine

/-- A pixel after the flip of one: that one inverted, every other as before. -/
@[simp] theorem Display.pixel_flip (d : Display) (x x' : Fin 64) (y y' : Fin 32) :
    (d.flip x y).pixel x' y' = if x = x' ∧ y = y' then !d.pixel x y else d.pixel x' y' := by
  unfold Display.flip Display.pixel
  simp only [Vector.get_eq_getElem, Vector.getElem_set, Fin.val_inj]
  by_cases hx : x = x'
  · subst hx
    simp [Vector.getElem_set, Fin.val_inj]
  · simp [hx]

@[simp] theorem Display.pixel_blank (x : Fin 64) (y : Fin 32) : Display.blank.pixel x y = false := by
  simp [Display.blank, Display.pixel, Vector.get_eq_getElem]

/-- Two displays with the same pixels are equal. -/
theorem Display.ext_pixel {d e : Display} (h : ∀ x y, d.pixel x y = e.pixel x y) : d = e := by
  apply Vector.ext
  intro i hi
  apply Vector.ext
  intro j hj
  have := h ⟨i, hi⟩ ⟨j, hj⟩
  simpa [Display.pixel, Vector.get_eq_getElem] using this

/-! ### Where pixels fall (R214) -/

theorem place_clip_eq_some {px py : Nat} {x : Fin 64} {y : Fin 32} :
    place .clip px py = some (x, y) ↔ px = x.val ∧ py = y.val := by
  unfold place
  split
  · simp [Prod.ext_iff, Fin.ext_iff]
  · rename_i h
    have := x.isLt
    have := y.isLt
    constructor
    · intro h'
      cases h'
    · rintro ⟨rfl, rfl⟩
      exact absurd ⟨x.isLt, y.isLt⟩ h

theorem place_wrap_eq_some {px py : Nat} {x : Fin 64} {y : Fin 32} :
    place .wrap px py = some (x, y) ↔ px % 64 = x.val ∧ py % 32 = y.val := by
  unfold place
  split
  · rename_i h
    simp [Prod.ext_iff, Fin.ext_iff, Nat.mod_eq_of_lt h.1, Nat.mod_eq_of_lt h.2]
  · simp [Prod.ext_iff, Fin.ext_iff]

/-- Two sprite pixels of one draw fall in different places: eight columns and at most thirty-two rows (R213). -/
theorem place_inj {edge : SpriteEdge} {x0 y0 j j' r r' : Nat} {p : Fin 64 × Fin 32} (hj : j < 8) (hj' : j' < 8) (hr : r < 32)
    (hr' : r' < 32) (h : place edge (x0 + j) (y0 + r) = some p) (h' : place edge (x0 + j') (y0 + r') = some p) :
    j = j' ∧ r = r' := by
  obtain ⟨x, y⟩ := p
  cases edge with
  | clip =>
    rw [place_clip_eq_some] at h h'
    omega
  | wrap =>
    rw [place_wrap_eq_some] at h h'
    omega

/-! ### The list of pixels a sprite toggles -/

/-- Flip the listed pixels in order, collecting whether one was on. -/
def flipAll : List (Fin 64 × Fin 32) → Display × Bool → Display × Bool
  | [], acc => acc
  | p :: ps, acc => flipAll ps (Display.flip acc.1 p.1 p.2, acc.2 || Display.pixel acc.1 p.1 p.2)

/-- The pixels of one row, for the column offsets given. -/
def rowPixels (edge : SpriteEdge) (x0 py : Nat) (b : Byte) (js : List Nat) : List (Fin 64 × Fin 32) :=
  js.filterMap fun j => if b.getLsbD (7 - j) then place edge (x0 + j) py else none

/-- The pixels of a sprite, row after row from py. -/
def spritePixels (edge : SpriteEdge) (x0 : Nat) : Nat → List Byte → List (Fin 64 × Fin 32)
  | _, [] => []
  | py, b :: bs => rowPixels edge x0 py b [0, 1, 2, 3, 4, 5, 6, 7] ++ spritePixels edge x0 (py + 1) bs

theorem flipAll_append (ps qs : List (Fin 64 × Fin 32)) (acc : Display × Bool) :
    flipAll (ps ++ qs) acc = flipAll qs (flipAll ps acc) := by
  induction ps generalizing acc with
  | nil => rfl
  | cons p ps ih => exact ih _

theorem drawColumns_eq (edge : SpriteEdge) (x0 py : Nat) (b : Byte) (js : List Nat) (acc : Display × Bool) :
    drawColumns edge x0 py b js acc = flipAll (rowPixels edge x0 py b js) acc := by
  induction js generalizing acc with
  | nil => rfl
  | cons j js ih =>
    unfold drawColumns
    rw [ih]
    by_cases hb : b.getLsbD (7 - j)
    · unfold drawPixel rowPixels
      rcases hp : place edge (x0 + j) py with _ | p
      · simp [hb, hp]
      · simp [hb, hp, flipAll]
    · simp [rowPixels, hb]

theorem drawRows_eq (edge : SpriteEdge) (x0 py : Nat) (bs : List Byte) (acc : Display × Bool) :
    drawRows edge x0 py bs acc = flipAll (spritePixels edge x0 py bs) acc := by
  induction bs generalizing py acc with
  | nil => rfl
  | cons b bs ih =>
    unfold drawRows drawRow spritePixels
    rw [ih, drawColumns_eq, flipAll_append]

/-- A pixel is in a row exactly when a set bit of the row's byte falls there. -/
theorem mem_rowPixels {edge : SpriteEdge} {x0 py : Nat} {b : Byte} {p : Fin 64 × Fin 32} :
    p ∈ rowPixels edge x0 py b [0, 1, 2, 3, 4, 5, 6, 7] ↔
      ∃ j < 8, b.getLsbD (7 - j) = true ∧ place edge (x0 + j) py = some p := by
  unfold rowPixels
  rw [List.mem_filterMap]
  constructor
  · rintro ⟨j, hj, hp⟩
    have hj8 : j < 8 := by
      simp only [List.mem_cons, List.not_mem_nil, or_false] at hj
      omega
    split at hp
    · exact ⟨j, hj8, ‹_›, hp⟩
    · cases hp
  · rintro ⟨j, hj, hb, hp⟩
    refine ⟨j, ?_, by simpa [hb] using hp⟩
    simp only [List.mem_cons, List.not_mem_nil, or_false]
    omega

/-- A pixel is in a sprite exactly when a set bit of some row falls there (R211). -/
theorem mem_spritePixels {edge : SpriteEdge} {x0 py : Nat} {bs : List Byte} {p : Fin 64 × Fin 32} :
    p ∈ spritePixels edge x0 py bs ↔
      ∃ (r : Nat) (hr : r < bs.length) (j : Nat), j < 8 ∧ bs[r].getLsbD (7 - j) = true ∧
        place edge (x0 + j) (py + r) = some p := by
  induction bs generalizing py with
  | nil => simp [spritePixels]
  | cons b bs ih =>
    unfold spritePixels
    rw [List.mem_append, mem_rowPixels, ih]
    constructor
    · rintro (⟨j, hj, hb, hp⟩ | ⟨r, hr, j, hj, hb, hp⟩)
      · exact ⟨0, by simp, j, hj, by simpa using hb, by simpa using hp⟩
      · refine ⟨r + 1, by simpa using hr, j, hj, by simpa using hb, ?_⟩
        rw [show py + (r + 1) = py + 1 + r by omega]
        exact hp
    · rintro ⟨r, hr, j, hj, hb, hp⟩
      cases r with
      | zero => exact .inl ⟨j, hj, by simpa using hb, by simpa using hp⟩
      | succ r =>
        refine .inr ⟨r, by simpa using hr, j, hj, by simpa using hb, ?_⟩
        rw [show py + 1 + r = py + (r + 1) by omega]
        exact hp

/-- "A sprite never toggles one pixel twice in one DRW" (R213). -/
theorem nodup_spritePixels (edge : SpriteEdge) (x0 y0 : Nat) (bs : List Byte) (h : bs.length ≤ 32) :
    ∀ k, k + bs.length ≤ 32 → (spritePixels edge x0 (y0 + k) bs).Nodup := by
  induction bs with
  | nil =>
    intro k _
    exact List.nodup_nil
  | cons b bs ih =>
    intro k hk
    simp only [List.length_cons] at h hk
    unfold spritePixels
    rw [List.nodup_append]
    refine ⟨?_, ?_, ?_⟩
    · unfold rowPixels
      rw [List.nodup_iff_pairwise_ne, List.pairwise_filterMap]
      refine List.Pairwise.imp_of_mem ?_ (show List.Pairwise (· ≠ ·) [0, 1, 2, 3, 4, 5, 6, 7] by decide)
      intro j j' hj hj' hne p hp p' hp' hpp
      subst hpp
      simp only [List.mem_cons, List.not_mem_nil, or_false] at hj hj'
      split at hp
      · split at hp'
        · exact hne (place_inj (r := k) (r' := k) (by omega) (by omega) (by omega) (by omega) hp hp').1
        · cases hp'
      · cases hp
    · rw [show y0 + k + 1 = y0 + (k + 1) by omega]
      exact ih (by omega) (k + 1) (by omega)
    · intro p hp q hq hpq
      subst hpq
      obtain ⟨j, hj, -, hp⟩ := mem_rowPixels.mp hp
      obtain ⟨r, hr, j', hj', -, hq⟩ := mem_spritePixels.mp hq
      rw [show y0 + k + 1 + r = y0 + (k + 1 + r) by omega] at hq
      have := place_inj hj hj' (by omega) (by omega) hp hq
      omega

/-- Flipping a list without repetitions: each listed pixel is inverted, every other is as before, and the flag says whether one was on. -/
theorem flipAll_of_nodup (ps : List (Fin 64 × Fin 32)) (hps : ps.Nodup) (d : Display) (c : Bool) :
    (∀ x y, (flipAll ps (d, c)).1.pixel x y = if (x, y) ∈ ps then !d.pixel x y else d.pixel x y) ∧
    ((flipAll ps (d, c)).2 = true ↔ c = true ∨ ∃ p ∈ ps, d.pixel p.1 p.2 = true) := by
  induction ps generalizing d c with
  | nil => simp [flipAll]
  | cons p ps ih =>
    obtain ⟨hp, hps⟩ := List.nodup_cons.mp hps
    obtain ⟨ih1, ih2⟩ := ih hps (d.flip p.1 p.2) (c || d.pixel p.1 p.2)
    constructor
    · intro x y
      show (flipAll ps (d.flip p.1 p.2, c || d.pixel p.1 p.2)).1.pixel x y = _
      rw [ih1, Display.pixel_flip]
      by_cases he : p = (x, y)
      · subst he
        simp [hp]
      · have he' : ¬(p.1 = x ∧ p.2 = y) := fun h => he (Prod.ext h.1 h.2)
        have he'' : (x, y) ≠ p := fun h => he h.symm
        simp [he', he'']
    · show (flipAll ps (d.flip p.1 p.2, c || d.pixel p.1 p.2)).2 = true ↔ _
      rw [ih2]
      have hother : ∀ q ∈ ps, (d.flip p.1 p.2).pixel q.1 q.2 = d.pixel q.1 q.2 := by
        intro q hq
        rw [Display.pixel_flip, if_neg]
        rintro ⟨h1, h2⟩
        exact hp (by rwa [show p = q from Prod.ext h1 h2])
      constructor
      · rintro (hc | ⟨q, hq, hon⟩)
        · rcases Bool.or_eq_true_iff.mp hc with hc | hc
          · exact .inl hc
          · exact .inr ⟨p, by simp, hc⟩
        · exact .inr ⟨q, by simp [hq], by rwa [hother q hq] at hon⟩
      · rintro (hc | ⟨q, hq, hon⟩)
        · exact .inl (by simp [hc])
        · rcases List.mem_cons.mp hq with rfl | hq
          · exact .inl (by simp [hon])
          · exact .inr ⟨q, hq, by rwa [hother q hq]⟩

/-- What drawing a sprite does to a display, and its collision flag (R212, R213). -/
theorem drawSprite_spec (edge : SpriteEdge) (x0 y0 : Nat) (bs : List Byte) (h : bs.length ≤ 32) (d : Display) :
    (∀ x y, (drawSprite edge x0 y0 bs d).1.pixel x y =
      if (x, y) ∈ spritePixels edge x0 y0 bs then !d.pixel x y else d.pixel x y) ∧
    ((drawSprite edge x0 y0 bs d).2 = true ↔ ∃ p ∈ spritePixels edge x0 y0 bs, d.pixel p.1 p.2 = true) := by
  have hn := nodup_spritePixels edge x0 y0 bs h 0 (by omega)
  have := flipAll_of_nodup _ hn d false
  unfold drawSprite
  rw [drawRows_eq]
  simpa using this

end Sys2Proof.Machine
end

