-- ==== Sys2Proof/Laws/Step.lean ====
section
/-! SUPPORT. What a step can do (40_engine.md R101), said once: every proof about step starts from step_cases or from one of the equations. -/

namespace Sys2Proof.Machine

variable (run : Instr → State → Host.Outcome State Fault Refusal) (policy : UnknownOpcodePolicy)

theorem stepBy_of_finished (s : State) (h : s.status ≠ .running) : stepBy run policy s = .next s := by
  unfold stepBy
  split <;> simp_all

theorem stepBy_of_wait (s : State) (x : RegIdx) (hs : s.status = .running) (hw : s.wait = some x) :
    stepBy run policy s = .next (s.keyWaitStep x) := by
  simp [stepBy, hs, hw]

theorem stepBy_of_past_end (s : State) (hs : s.status = .running) (hw : s.wait = none) (hf : s.fetchWord = none) :
    stepBy run policy s = .next s.halt := by
  simp [stepBy, hs, hw, hf]

theorem stepBy_of_instr (s : State) {w : Word} {i : Instr} (hs : s.status = .running) (hw : s.wait = none)
    (hf : s.fetchWord = some w) (hd : decodeWord w = .ok i) : stepBy run policy s = run i s.advance := by
  simp [stepBy, hs, hw, hf, hd]

theorem stepBy_of_unknown (s : State) {w : Word} {e : DecodeError} (hs : s.status = .running) (hw : s.wait = none)
    (hf : s.fetchWord = some w) (hd : decodeWord w = .error e) :
    stepBy run policy s = .next (s.advance.unknownOpcode policy w) := by
  simp [stepBy, hs, hw, hf, hd]

/-- The cases of a step, in the order of R255: finished, waiting for a key, past the end, an instruction, an unrecognised word. -/
theorem stepBy_cases {run : Instr → State → Host.Outcome State Fault Refusal} {policy : UnknownOpcodePolicy} {s t : State}
    (h : stepBy run policy s = .next t) :
    (s.status ≠ .running ∧ t = s) ∨
    (∃ x, s.status = .running ∧ s.wait = some x ∧ t = s.keyWaitStep x) ∨
    (s.status = .running ∧ s.wait = none ∧ s.fetchWord = none ∧ t = s.halt) ∨
    (∃ w i, s.status = .running ∧ s.wait = none ∧ s.fetchWord = some w ∧ decodeWord w = .ok i ∧ run i s.advance = .next t) ∨
    ∃ w, s.status = .running ∧ s.wait = none ∧ s.fetchWord = some w ∧ decodeWord w = .error (.unknownOpcode w) ∧
      t = s.advance.unknownOpcode policy w := by
  by_cases hs : s.status = .running
  swap
  · rw [stepBy_of_finished run policy s hs] at h
    exact .inl ⟨hs, by injection h with h; exact h.symm⟩
  rcases hw : s.wait with _ | x
  swap
  · rw [stepBy_of_wait run policy s x hs hw] at h
    exact .inr (.inl ⟨x, hs, rfl, by injection h with h; exact h.symm⟩)
  rcases hf : s.fetchWord with _ | w
  · rw [stepBy_of_past_end run policy s hs hw hf] at h
    exact .inr (.inr (.inl ⟨hs, rfl, rfl, by injection h with h; exact h.symm⟩))
  rcases hd : decodeWord w with e | i
  · rw [stepBy_of_unknown run policy s hs hw hf hd] at h
    refine .inr (.inr (.inr (.inr ⟨w, hs, rfl, rfl, ?_, by injection h with h; exact h.symm⟩)))
    rw [decodeWord_error hd] at hd
    exact hd
  · rw [stepBy_of_instr run policy s hs hw hf hd] at h
    exact .inr (.inr (.inr (.inl ⟨w, i, hs, rfl, rfl, hd, h⟩)))

/-! ### The same of this hardware's step -/

theorem step_of_finished (s : State) (h : s.status ≠ .running) : step s = .next s :=
  stepBy_of_finished _ _ s h

theorem step_of_wait (s : State) (x : RegIdx) (hs : s.status = .running) (hw : s.wait = some x) :
    step s = .next (s.keyWaitStep x) :=
  stepBy_of_wait _ _ s x hs hw

theorem step_of_past_end (s : State) (hs : s.status = .running) (hw : s.wait = none) (hf : s.fetchWord = none) :
    step s = .next s.halt :=
  stepBy_of_past_end _ _ s hs hw hf

theorem step_of_instr (s : State) {w : Word} {i : Instr} (hs : s.status = .running) (hw : s.wait = none)
    (hf : s.fetchWord = some w) (hd : decodeWord w = .ok i) : step s = exec i s.advance :=
  stepBy_of_instr _ _ s hs hw hf hd

theorem step_of_unknown (s : State) {w : Word} {e : DecodeError} (hs : s.status = .running) (hw : s.wait = none)
    (hf : s.fetchWord = some w) (hd : decodeWord w = .error e) :
    step s = .next (s.advance.unknownOpcode Param.unknownOpcodePolicy w) :=
  stepBy_of_unknown _ _ s hs hw hf hd

theorem step_cases {s t : State} (h : step s = .next t) :
    (s.status ≠ .running ∧ t = s) ∨
    (∃ x, s.status = .running ∧ s.wait = some x ∧ t = s.keyWaitStep x) ∨
    (s.status = .running ∧ s.wait = none ∧ s.fetchWord = none ∧ t = s.halt) ∨
    (∃ w i, s.status = .running ∧ s.wait = none ∧ s.fetchWord = some w ∧ decodeWord w = .ok i ∧ exec i s.advance = .next t) ∨
    ∃ w, s.status = .running ∧ s.wait = none ∧ s.fetchWord = some w ∧ decodeWord w = .error (.unknownOpcode w) ∧
      t = s.advance.unknownOpcode Param.unknownOpcodePolicy w :=
  stepBy_cases h

/-- A word placed at pc is the word fetched there (R53, R58). -/
theorem State.fetchWord_placeWord (s : State) (w : Word) (h : s.pc.toNat ≤ 0x0FFE) : (s.placeWord w).fetchWord = some w := by
  rw [State.fetchWord_of_le (s.placeWord w) h]
  have h0 : Memory.byteAt (s.placeWord w).mem s.pc.toNat = w.extractLsb' 8 8 := by
    simp [State.placeWord, bytesOfWord]
  have h1 : Memory.byteAt (s.placeWord w).mem (s.pc.toNat + 1) = w.extractLsb' 0 8 := by
    simp [State.placeWord, bytesOfWord]
  show some (wordOfBytes (Memory.byteAt (s.placeWord w).mem s.pc.toNat) (Memory.byteAt (s.placeWord w).mem (s.pc.toNat + 1))) = _
  rw [h0, h1, wordOfBytes_bytesOfWord]

/-- The step after withFetchWord runs the placed word's instruction, from the state with pc advanced (log 31). -/
theorem step_withFetchWord (s : State) (nbits w : Nat) {i : Instr} (hd : decodeWord (tableWord nbits w) = .ok i) :
    step (s.withFetchWord nbits w) = exec i (s.withFetchWord nbits w).advance := by
  have hpc : s.readyToFetch.pc.toNat ≤ 0x0FFE := by
    unfold State.readyToFetch
    dsimp only
    split
    · have : s.pc.toNat + 2 ≤ 4096 := ‹_›
      omega
    · decide
  exact step_of_instr _ rfl rfl (State.fetchWord_placeWord _ _ hpc) hd

end Sys2Proof.Machine
end

