-- ==== Sys2Proof/Laws/Meanings.lean ====
section
/-! SUPPORT. The meanings that branch, as equations: what exec answers where the instruction completes and where it faults. Every other meaning
is one update, and its equation is its definition. -/

namespace Sys2Proof.Machine

theorem exec_ret_of_empty (s : State) (h : s.sp.val = 0) : exec .ret s = .next s := by
  show execRet s = _
  rw [execRet, s.pop_of_empty h]

theorem exec_ret_of_succ (s : State) {k : Nat} (hk : k < 16) (h : s.sp.val = k + 1) :
    exec .ret s = .next { s with sp := ⟨k, Nat.lt_succ_of_lt hk⟩, pc := s.stack[k] } := by
  show execRet s = _
  rw [execRet, s.pop_of_succ hk h]
  rfl

theorem exec_call_of_lt (nnn : Addr) (s : State) (h : s.sp.val < 16) :
    exec (.call nnn) s =
      .next { s with stack := s.stack.set s.sp.val s.pc h, sp := ⟨s.sp.val + 1, Nat.succ_lt_succ h⟩, pc := zextAddr nnn } := by
  show execCall nnn s = _
  rw [execCall, s.push_of_lt s.pc h]
  rfl

theorem exec_call_of_full (nnn : Addr) (s : State) (h : s.sp.val = 16) :
    exec (.call nnn) s = .next (s.enterFault .stackOverflow (encode (.call nnn))) := by
  show execCall nnn s = _
  rw [execCall, s.push_of_full s.pc h]

theorem exec_ldBVx_of_le (x : RegIdx) (s : State) (h : s.I.toNat + 3 ≤ Config.memSize) :
    exec (.ldBVx x) s = .next (s.setMem (Memory.writeBytes s.mem s.I.toNat (decimalDigits (s.reg x)))) := by
  show execLdBVx x s = _
  rcases s.writeAtI_cases (decimalDigits (s.reg x)) with ⟨-, hw⟩ | ⟨hl, -⟩
  · rw [execLdBVx, hw]
  · rw [decimalDigits_length] at hl
    omega

theorem exec_ldBVx_of_lt (x : RegIdx) (s : State) (h : Config.memSize < s.I.toNat + 3) :
    exec (.ldBVx x) s = .next (s.enterFault .memoryBoundsViolation (encode (.ldBVx x))) := by
  show execLdBVx x s = _
  rcases s.writeAtI_cases (decimalDigits (s.reg x)) with ⟨hl, -⟩ | ⟨-, hw⟩
  · rw [decimalDigits_length] at hl
    omega
  · rw [execLdBVx, hw]

theorem exec_ldMemVx_of_le (x : RegIdx) (s : State) (h : s.I.toNat + x.toNat + 1 ≤ Config.memSize) :
    exec (.ldMemVx x) s = .next (s.setMem (Memory.writeBytes s.mem s.I.toNat (s.regsTo x))) := by
  show execLdMemVx x s = _
  rcases s.writeAtI_cases (s.regsTo x) with ⟨-, hw⟩ | ⟨hl, -⟩
  · rw [execLdMemVx, hw]
  · rw [State.regsTo_length] at hl
    omega

theorem exec_ldMemVx_of_lt (x : RegIdx) (s : State) (h : Config.memSize < s.I.toNat + x.toNat + 1) :
    exec (.ldMemVx x) s = .next (s.enterFault .memoryBoundsViolation (encode (.ldMemVx x))) := by
  show execLdMemVx x s = _
  rcases s.writeAtI_cases (s.regsTo x) with ⟨hl, -⟩ | ⟨-, hw⟩
  · rw [State.regsTo_length] at hl
    omega
  · rw [execLdMemVx, hw]

theorem exec_ldVxMem_of_le (x : RegIdx) (s : State) (h : s.I.toNat + x.toNat + 1 ≤ Config.memSize) :
    exec (.ldVxMem x) s =
      .next (s.loadRegs 0 ((List.range (x.toNat + 1)).map fun k => Memory.byteAt s.mem (s.I.toNat + k))) := by
  show execLdVxMem x s = _
  rcases s.readAtI_cases (x.toNat + 1) with ⟨-, hr⟩ | ⟨hl, -⟩
  · rw [execLdVxMem, hr]
  · omega

theorem exec_ldVxMem_of_lt (x : RegIdx) (s : State) (h : Config.memSize < s.I.toNat + x.toNat + 1) :
    exec (.ldVxMem x) s = .next (s.enterFault .memoryBoundsViolation (encode (.ldVxMem x))) := by
  show execLdVxMem x s = _
  rcases s.readAtI_cases (x.toNat + 1) with ⟨hl, -⟩ | ⟨-, hr⟩
  · omega
  · rw [execLdVxMem, hr]

/-- DRW under an edge policy, where the sprite lies in memory: the sprite, then the flag in VF. -/
theorem drwWith_of_le (edge : SpriteEdge) (x y : RegIdx) (n : BitVec 4) (s : State) (h : s.I.toNat + n.toNat ≤ Config.memSize) :
    ∃ drawn, drawn = drawSprite edge (startColumn (s.reg x)) (startRow (s.reg y))
        ((List.range n.toNat).map fun k => Memory.byteAt s.mem (s.I.toNat + k)) s.disp ∧
      drwWith edge x y n s = (s.setDisp drawn.1).setReg vF (flagByte drawn.2) := by
  refine ⟨_, rfl, ?_⟩
  rcases s.readAtI_cases n.toNat with ⟨-, hr⟩ | ⟨hl, -⟩
  · rw [drwWith, hr]
  · omega

theorem drwWith_of_lt (edge : SpriteEdge) (x y : RegIdx) (n : BitVec 4) (s : State) (h : Config.memSize < s.I.toNat + n.toNat) :
    drwWith edge x y n s = s.enterFault .memoryBoundsViolation (encode (.drw x y n)) := by
  rcases s.readAtI_cases n.toNat with ⟨hl, -⟩ | ⟨-, hr⟩
  · omega
  · rw [drwWith, hr]

/-- LD F is a write of I (R192). -/
@[simp] theorem ldFWith_eq (fontBase : Nat) (x : RegIdx) (s : State) : ldFWith fontBase x s = s.setI (glyphAddr fontBase (s.reg x)) := rfl

theorem exec_drw (x y : RegIdx) (n : BitVec 4) (s : State) : exec (.drw x y n) s = .next (drwWith Param.spriteEdge x y n s) := rfl

end Sys2Proof.Machine
end

