-- ==== Sys2Proof/Laws/Parameters.lean ====
section
/-! SUPPORT. The machine under parameters (00_scope.md R11): the fields of its reset state, and what an instruction does there. -/

namespace Sys2Proof.Machine

/-! ### The reset state: only memory depends on a parameter (R280) -/

@[simp] theorem State.resetWith_mem (p : Params) : (State.resetWith p).mem = Memory.withFont p.fontBase p.fontGlyphs := rfl
@[simp] theorem State.resetWith_V (p : Params) : (State.resetWith p).V = State.reset.V := rfl
@[simp] theorem State.resetWith_I (p : Params) : (State.resetWith p).I = State.reset.I := rfl
@[simp] theorem State.resetWith_pc (p : Params) : (State.resetWith p).pc = State.reset.pc := rfl
@[simp] theorem State.resetWith_stack (p : Params) : (State.resetWith p).stack = State.reset.stack := rfl
@[simp] theorem State.resetWith_sp (p : Params) : (State.resetWith p).sp = State.reset.sp := rfl
@[simp] theorem State.resetWith_DT (p : Params) : (State.resetWith p).DT = State.reset.DT := rfl
@[simp] theorem State.resetWith_ST (p : Params) : (State.resetWith p).ST = State.reset.ST := rfl
@[simp] theorem State.resetWith_disp (p : Params) : (State.resetWith p).disp = State.reset.disp := rfl
@[simp] theorem State.resetWith_key (p : Params) : (State.resetWith p).key = State.reset.key := rfl
@[simp] theorem State.resetWith_wait (p : Params) : (State.resetWith p).wait = State.reset.wait := rfl
@[simp] theorem State.resetWith_kev (p : Params) : (State.resetWith p).kev = State.reset.kev := rfl
@[simp] theorem State.resetWith_status (p : Params) : (State.resetWith p).status = State.reset.status := rfl
@[simp] theorem State.resetWith_draws (p : Params) : (State.resetWith p).draws = State.reset.draws := rfl
@[simp] theorem State.resetWith_reg (p : Params) (j : RegIdx) : (State.resetWith p).reg j = State.reset.reg j := rfl

/-! ### The execution of an instruction -/

/-- The three cases of an execution under parameters: LD F under its font address, DRW under its edge policy, every other instruction as it is. -/
theorem execWith_cases (p : Params) (i : Instr) (s : State) :
    (∃ x, i = .ldFVx x ∧ execWith p i s = .next (s.setI (glyphAddr p.fontBase (s.reg x)))) ∨
    (∃ x y n, i = .drw x y n ∧ execWith p i s = .next (drwWith p.spriteEdge x y n s)) ∨
    execWith p i s = exec i s := by
  cases i
  case ldFVx x => exact .inl ⟨x, rfl, rfl⟩
  case drw x y n => exact .inr (.inl ⟨x, y, n, rfl, rfl⟩)
  all_goals exact .inr (.inr rfl)

end Sys2Proof.Machine
end

