-- ==== Sys2Proof/Laws/PerInstr.lean ====
section
/-! SUPPORT. The family MatchesRow: the word of every well-formed instruction matches the row of the opcode map that bears its mnemonic (R80). -/

namespace Sys2Proof.Laws.MatchesRow

/-- encode's word selects a row of the opcode map with the instruction's mnemonic: word and mask = pattern. -/
def Statement (i : Instr) : Prop :=
  i.wellFormed = true → ∃ r ∈ opcodeMap, encode i &&& r.mask = r.pattern ∧ r.mnemonic = i.mnemonic

/-- A mask of ones keeps a field. -/
theorem and_ones4 (c : BitVec 4) : c &&& 0xF#4 = c := BitVec.and_allOnes

/-- A mask of ones keeps a byte. -/
theorem and_ones8 (b : BitVec 8) : b &&& 0xFF#8 = b := BitVec.and_allOnes

/-- The and of two joined fields is taken field by field. -/
theorem wordNnn_and (c d : BitVec 4) (a b : Addr) : wordNnn c a &&& wordNnn d b = wordNnn (c &&& d) (a &&& b) :=
  BitVec.and_append

theorem wordXkk_and (c d : BitVec 4) (x y : RegIdx) (a b : Byte) :
    wordXkk c x a &&& wordXkk d y b = wordXkk (c &&& d) (x &&& y) (a &&& b) := by
  show ((c ++ x) ++ a) &&& ((d ++ y) ++ b) = ((c &&& d) ++ (x &&& y)) ++ (a &&& b)
  rw [BitVec.and_append, BitVec.and_append]

theorem wordXyn_and (c d : BitVec 4) (x x' y y' : RegIdx) (n m : BitVec 4) :
    wordXyn c x y n &&& wordXyn d x' y' m = wordXyn (c &&& d) (x &&& x') (y &&& y') (n &&& m) := by
  show (((c ++ x) ++ y) ++ n) &&& (((d ++ x') ++ y') ++ m) = (((c &&& d) ++ (x &&& x')) ++ (y &&& y')) ++ (n &&& m)
  rw [BitVec.and_append, BitVec.and_append, BitVec.and_append]

/-- A word of the form cnnn under a mask that keeps its class. -/
theorem nnn_row (c : BitVec 4) (nnn : Addr) : wordNnn c nnn &&& 0xF000#16 = wordNnn c 0#12 := by
  rw [show 0xF000#16 = wordNnn 0xF#4 0#12 from rfl, wordNnn_and, and_ones4, BitVec.and_zero]

/-- A word of the form cxkk under a mask that keeps its class. -/
theorem xkk_row (c : BitVec 4) (x : RegIdx) (kk : Byte) : wordXkk c x kk &&& 0xF000#16 = wordXkk c 0#4 0#8 := by
  rw [show 0xF000#16 = wordXkk 0xF#4 0#4 0#8 from rfl, wordXkk_and, and_ones4, BitVec.and_zero, BitVec.and_zero]

/-- A word of the form cxkk under a mask that keeps its class and its byte. -/
theorem xkk_sub_row (c : BitVec 4) (x : RegIdx) (kk : Byte) : wordXkk c x kk &&& 0xF0FF#16 = wordXkk c 0#4 kk := by
  rw [show 0xF0FF#16 = wordXkk 0xF#4 0#4 0xFF#8 from rfl, wordXkk_and, and_ones4, and_ones8, BitVec.and_zero]

/-- A word of the form cxyn under a mask that keeps its class. -/
theorem xyn_row (c : BitVec 4) (x y : RegIdx) (n : BitVec 4) : wordXyn c x y n &&& 0xF000#16 = wordXyn c 0#4 0#4 0#4 := by
  rw [show 0xF000#16 = wordXyn 0xF#4 0#4 0#4 0#4 from rfl, wordXyn_and]
  simp only [and_ones4, BitVec.and_zero]

/-- A word of the form cxyn under a mask that keeps its class and its nibble. -/
theorem xyn_sub_row (c : BitVec 4) (x y : RegIdx) (n : BitVec 4) : wordXyn c x y n &&& 0xF00F#16 = wordXyn c 0#4 0#4 n := by
  rw [show 0xF00F#16 = wordXyn 0xF#4 0#4 0#4 0xF#4 from rfl, wordXyn_and]
  simp only [and_ones4, BitVec.and_zero]

theorem cls : Statement .cls := fun _ => ⟨⟨0xFFFF#16, 0x00E0#16, "CLS"⟩, by decide, by decide, rfl⟩
theorem ret : Statement .ret := fun _ => ⟨⟨0xFFFF#16, 0x00EE#16, "RET"⟩, by decide, by decide, rfl⟩
theorem sys (nnn : Addr) : Statement (.sys nnn) := fun _ => ⟨⟨0xF000#16, 0x0000#16, "SYS_addr"⟩, by decide, nnn_row _ nnn, rfl⟩
theorem jp (nnn : Addr) : Statement (.jp nnn) := fun _ => ⟨⟨0xF000#16, 0x1000#16, "JP_addr"⟩, by decide, nnn_row _ nnn, rfl⟩
theorem call (nnn : Addr) : Statement (.call nnn) := fun _ => ⟨⟨0xF000#16, 0x2000#16, "CALL_addr"⟩, by decide, nnn_row _ nnn, rfl⟩
theorem seImm (x : RegIdx) (kk : Byte) : Statement (.seImm x kk) := fun _ => ⟨⟨0xF000#16, 0x3000#16, "SE_Vx__byte"⟩, by decide, xkk_row _ x kk, rfl⟩
theorem sneImm (x : RegIdx) (kk : Byte) : Statement (.sneImm x kk) := fun _ => ⟨⟨0xF000#16, 0x4000#16, "SNE_Vx__byte"⟩, by decide, xkk_row _ x kk, rfl⟩
theorem seReg (x y : RegIdx) : Statement (.seReg x y) := fun _ => ⟨⟨0xF00F#16, 0x5000#16, "SE_Vx__Vy"⟩, by decide, xyn_sub_row _ x y _, rfl⟩
theorem ldImm (x : RegIdx) (kk : Byte) : Statement (.ldImm x kk) := fun _ => ⟨⟨0xF000#16, 0x6000#16, "LD_Vx__byte"⟩, by decide, xkk_row _ x kk, rfl⟩
theorem addImm (x : RegIdx) (kk : Byte) : Statement (.addImm x kk) := fun _ => ⟨⟨0xF000#16, 0x7000#16, "ADD_Vx__byte"⟩, by decide, xkk_row _ x kk, rfl⟩
theorem ldReg (x y : RegIdx) : Statement (.ldReg x y) := fun _ => ⟨⟨0xF00F#16, 0x8000#16, "LD_Vx__Vy"⟩, by decide, xyn_sub_row _ x y _, rfl⟩
theorem orReg (x y : RegIdx) : Statement (.orReg x y) := fun _ => ⟨⟨0xF00F#16, 0x8001#16, "OR_Vx__Vy"⟩, by decide, xyn_sub_row _ x y _, rfl⟩
theorem andReg (x y : RegIdx) : Statement (.andReg x y) := fun _ => ⟨⟨0xF00F#16, 0x8002#16, "AND_Vx__Vy"⟩, by decide, xyn_sub_row _ x y _, rfl⟩
theorem xorReg (x y : RegIdx) : Statement (.xorReg x y) := fun _ => ⟨⟨0xF00F#16, 0x8003#16, "XOR_Vx__Vy"⟩, by decide, xyn_sub_row _ x y _, rfl⟩
theorem addReg (x y : RegIdx) : Statement (.addReg x y) := fun _ => ⟨⟨0xF00F#16, 0x8004#16, "ADD_Vx__Vy"⟩, by decide, xyn_sub_row _ x y _, rfl⟩
theorem subReg (x y : RegIdx) : Statement (.subReg x y) := fun _ => ⟨⟨0xF00F#16, 0x8005#16, "SUB_Vx__Vy"⟩, by decide, xyn_sub_row _ x y _, rfl⟩
theorem shr (x y : RegIdx) : Statement (.shr x y) := fun _ => ⟨⟨0xF00F#16, 0x8006#16, "SHR_Vx"⟩, by decide, xyn_sub_row _ x y _, rfl⟩
theorem subnReg (x y : RegIdx) : Statement (.subnReg x y) := fun _ => ⟨⟨0xF00F#16, 0x8007#16, "SUBN_Vx__Vy"⟩, by decide, xyn_sub_row _ x y _, rfl⟩
theorem shl (x y : RegIdx) : Statement (.shl x y) := fun _ => ⟨⟨0xF00F#16, 0x800E#16, "SHL_Vx"⟩, by decide, xyn_sub_row _ x y _, rfl⟩
theorem sneReg (x y : RegIdx) : Statement (.sneReg x y) := fun _ => ⟨⟨0xF00F#16, 0x9000#16, "SNE_Vx__Vy"⟩, by decide, xyn_sub_row _ x y _, rfl⟩
theorem ldI (nnn : Addr) : Statement (.ldI nnn) := fun _ => ⟨⟨0xF000#16, 0xA000#16, "LD_I__addr"⟩, by decide, nnn_row _ nnn, rfl⟩
theorem jpV0 (nnn : Addr) : Statement (.jpV0 nnn) := fun _ => ⟨⟨0xF000#16, 0xB000#16, "JP_V0__addr"⟩, by decide, nnn_row _ nnn, rfl⟩
theorem rnd (x : RegIdx) (kk : Byte) : Statement (.rnd x kk) := fun _ => ⟨⟨0xF000#16, 0xC000#16, "RND_Vx__byte"⟩, by decide, xkk_row _ x kk, rfl⟩
theorem drw (x y : RegIdx) (n : BitVec 4) : Statement (.drw x y n) := fun _ => ⟨⟨0xF000#16, 0xD000#16, "DRW_Vx__Vy__n"⟩, by decide, xyn_row _ x y n, rfl⟩
theorem skp (x : RegIdx) : Statement (.skp x) := fun _ => ⟨⟨0xF0FF#16, 0xE09E#16, "SKP_Vx"⟩, by decide, xkk_sub_row _ x _, rfl⟩
theorem sknp (x : RegIdx) : Statement (.sknp x) := fun _ => ⟨⟨0xF0FF#16, 0xE0A1#16, "SKNP_Vx"⟩, by decide, xkk_sub_row _ x _, rfl⟩
theorem ldVxDT (x : RegIdx) : Statement (.ldVxDT x) := fun _ => ⟨⟨0xF0FF#16, 0xF007#16, "LD_Vx__DT"⟩, by decide, xkk_sub_row _ x _, rfl⟩
theorem ldVxK (x : RegIdx) : Statement (.ldVxK x) := fun _ => ⟨⟨0xF0FF#16, 0xF00A#16, "LD_Vx__K"⟩, by decide, xkk_sub_row _ x _, rfl⟩
theorem ldDTVx (x : RegIdx) : Statement (.ldDTVx x) := fun _ => ⟨⟨0xF0FF#16, 0xF015#16, "LD_DT__Vx"⟩, by decide, xkk_sub_row _ x _, rfl⟩
theorem ldSTVx (x : RegIdx) : Statement (.ldSTVx x) := fun _ => ⟨⟨0xF0FF#16, 0xF018#16, "LD_ST__Vx"⟩, by decide, xkk_sub_row _ x _, rfl⟩
theorem addIVx (x : RegIdx) : Statement (.addIVx x) := fun _ => ⟨⟨0xF0FF#16, 0xF01E#16, "ADD_I__Vx"⟩, by decide, xkk_sub_row _ x _, rfl⟩
theorem ldFVx (x : RegIdx) : Statement (.ldFVx x) := fun _ => ⟨⟨0xF0FF#16, 0xF029#16, "LD_F__Vx"⟩, by decide, xkk_sub_row _ x _, rfl⟩
theorem ldBVx (x : RegIdx) : Statement (.ldBVx x) := fun _ => ⟨⟨0xF0FF#16, 0xF033#16, "LD_B__Vx"⟩, by decide, xkk_sub_row _ x _, rfl⟩
theorem ldMemVx (x : RegIdx) : Statement (.ldMemVx x) := fun _ => ⟨⟨0xF0FF#16, 0xF055#16, "LD__I___Vx"⟩, by decide, xkk_sub_row _ x _, rfl⟩
theorem ldVxMem (x : RegIdx) : Statement (.ldVxMem x) := fun _ => ⟨⟨0xF0FF#16, 0xF065#16, "LD_Vx___I"⟩, by decide, xkk_sub_row _ x _, rfl⟩

end Sys2Proof.Laws.MatchesRow
end

