-- ==== Sys2Proof/Tests/Slice0.lean ====
section
/-! SUPPORT. The model's own tests: the WellFormed smoke, the decoding of a word of every constructor, one step of every instruction, and for
every statement with hypotheses a witness that meets them. The expected results are those of 95_test_vectors.md (the vector's name stands at
each test), which the spec computed by hand from its rules. -/

namespace Sys2Proof.Tests

open Sys2Proof.Machine

/-! ### Small states -/

/-- The reset state with the given registers set. -/
def withRegs (rs : List (RegIdx × Byte)) : State :=
  rs.foldl (fun s r => s.setReg r.1 r.2) State.reset

/-- s with bytes stored from an address on. -/
def withBytes (s : State) (a : Nat) (bs : List Byte) : State :=
  s.setMem (Memory.writeBytes s.mem a bs)

/-- s with n entries on the return stack. -/
def withEntries (s : State) (n : Fin 17) : State :=
  { s with sp := n }

/-- s with the pixel (0, 0) inverted. -/
def withCorner (s : State) : State :=
  s.setDisp (s.disp.flip 0 0)

/-- The word stands at pc and one step gives a next state for which p holds. -/
def answers (s : State) (w : Nat) (p : State → Bool) : Bool :=
  match step (s.withFetchWord 16 w) with
  | .next t => p t
  | .fault _ => false
  | .refused _ => false

/-- The number of pixels that are on. -/
def litPixels (s : State) : Nat :=
  (s.disp.toList.map fun c => c.toList.count true).sum

/-! ### WellFormed: the two words of class 0 that are CLS and RET are not SYS (R81) -/

theorem test_wellFormed_refuses_sys_cls : (Instr.sys 0x0E0#12).wellFormed = false := by decide
theorem test_wellFormed_refuses_sys_ret : (Instr.sys 0x0EE#12).wellFormed = false := by decide
theorem test_wellFormed_admits_sys : (Instr.sys 0x0E1#12).wellFormed = true := by decide

/-! ### Decoding: a word of every constructor, its digits written out from the patterns of R80 (2.1 to 2.7 of 95_test_vectors.md) -/

theorem test_decode_control :
    decodeWord 0x00E0#16 = .ok .cls ∧ decodeWord 0x00EE#16 = .ok .ret ∧ decodeWord 0x0FFF#16 = .ok (.sys 0xFFF#12) ∧
    decodeWord 0x1208#16 = .ok (.jp 0x208#12) ∧ decodeWord 0x2300#16 = .ok (.call 0x300#12) ∧
    decodeWord 0x3342#16 = .ok (.seImm 0x3#4 0x42#8) ∧ decodeWord 0x4342#16 = .ok (.sneImm 0x3#4 0x42#8) ∧
    decodeWord 0x5120#16 = .ok (.seReg 0x1#4 0x2#4) ∧ decodeWord 0x9120#16 = .ok (.sneReg 0x1#4 0x2#4) ∧
    decodeWord 0xB123#16 = .ok (.jpV0 0x123#12) := by decide

theorem test_decode_alu :
    decodeWord 0x6A5C#16 = .ok (.ldImm 0xA#4 0x5C#8) ∧ decodeWord 0x7F01#16 = .ok (.addImm 0xF#4 0x01#8) ∧
    decodeWord 0x8010#16 = .ok (.ldReg 0x0#4 0x1#4) ∧ decodeWord 0x8F11#16 = .ok (.orReg 0xF#4 0x1#4) ∧
    decodeWord 0x8012#16 = .ok (.andReg 0x0#4 0x1#4) ∧ decodeWord 0x8AB3#16 = .ok (.xorReg 0xA#4 0xB#4) ∧
    decodeWord 0x80F4#16 = .ok (.addReg 0x0#4 0xF#4) ∧ decodeWord 0x8F15#16 = .ok (.subReg 0xF#4 0x1#4) ∧
    decodeWord 0x8056#16 = .ok (.shr 0x0#4 0x5#4) ∧ decodeWord 0x8017#16 = .ok (.subnReg 0x0#4 0x1#4) ∧
    decodeWord 0x8F0E#16 = .ok (.shl 0xF#4 0x0#4) ∧ decodeWord 0xC0F0#16 = .ok (.rnd 0x0#4 0xF0#8) := by decide

theorem test_decode_index_display :
    decodeWord 0xA123#16 = .ok (.ldI 0x123#12) ∧ decodeWord 0xF51E#16 = .ok (.addIVx 0x5#4) ∧
    decodeWord 0xF029#16 = .ok (.ldFVx 0x0#4) ∧ decodeWord 0xF033#16 = .ok (.ldBVx 0x0#4) ∧
    decodeWord 0xF155#16 = .ok (.ldMemVx 0x1#4) ∧ decodeWord 0xFF65#16 = .ok (.ldVxMem 0xF#4) ∧
    decodeWord 0xD125#16 = .ok (.drw 0x1#4 0x2#4 0x5#4) := by decide

theorem test_decode_keys_timers :
    decodeWord 0xE19E#16 = .ok (.skp 0x1#4) ∧ decodeWord 0xE1A1#16 = .ok (.sknp 0x1#4) ∧
    decodeWord 0xF207#16 = .ok (.ldVxDT 0x2#4) ∧ decodeWord 0xF30A#16 = .ok (.ldVxK 0x3#4) ∧
    decodeWord 0xF215#16 = .ok (.ldDTVx 0x2#4) ∧ decodeWord 0xF218#16 = .ok (.ldSTVx 0x2#4) := by decide

/-- Unrecognised words of every class that has some, the neighbours of a row among them (R83). -/
theorem test_decode_rejects :
    [0x5121#16, 0x512F#16, 0x8008#16, 0x800D#16, 0x800F#16, 0x9001#16, 0xE09F#16, 0xE0A0#16, 0xF000#16, 0xF066#16, 0xFF64#16].all
      (fun w => decide (decodeWord w = .error (.unknownOpcode w))) = true := by decide

/-- The fields of 0x8AB6 (W1). -/
theorem test_decode_fields :
    decodeFields 0x8AB6#16 = ⟨0x8AB6#16, 0x8#4, 0xAB6#12, 0xA#4, 0xB#4, 0xB6#8, 0x6#4⟩ := by decide

/-- Bytes in memory order, a word cut short, and the table's numbering of bits. -/
theorem test_decode_bytes :
    decode [0xD1#8, 0x25#8, 0x99#8] = .ok (.drw 0x1#4 0x2#4 0x5#4, [0x99#8]) ∧ decode [0xD1#8] = .error .truncated ∧
    decodeTableWord 16 0xD125 = some (.drw 0x1#4 0x2#4 0x5#4) ∧ decodeTableWord 16 0x5121 = none := by decide

/-! ### One step of every instruction -/

/-- EN1, CT3: SYS only advances pc, at the last address of memory too. -/
theorem test_sys :
    answers State.reset 0x0123 (fun t => decide (t.pc = 0x202#16)) ∧
    answers (State.reset.setPc 0x0FFE#16) 0x0000 (fun t => decide (t.pc = 0x1000#16 ∧ t.status = .running)) := by decide

/-- DR1. -/
theorem test_cls : answers (withCorner (withRegs [(vF, 0x55#8)])) 0x00E0
    (fun t => decide (litPixels t = 0 ∧ t.reg vF = 0x55#8)) := by decide +kernel

/-- CT1, CT2. -/
theorem test_ret :
    answers (State.reset.setPc 0x206#16) 0x00EE (fun t => decide (t.pc = 0x208#16 ∧ t.sp = 0)) ∧
    answers { State.reset with sp := 2, stack := State.reset.stack.set 1 0x404#16, pc := 0x300#16 } 0x00EE
      (fun t => decide (t.pc = 0x404#16 ∧ t.sp = 1 ∧ t.stack[1] = 0x404#16)) := by decide

/-- CT5: an odd target. -/
theorem test_jp : answers State.reset 0x1201 (fun t => decide (t.pc = 0x201#16)) := by decide

/-- CT8, CT7. -/
theorem test_call :
    answers (State.reset.setPc 0x0FFE#16) 0x2400 (fun t => decide (t.stack[0] = 0x1000#16 ∧ t.sp = 1 ∧ t.pc = 0x400#16)) ∧
    answers (withEntries State.reset 16) 0x2300
      (fun t => decide (t.status = .faulted .stackOverflow 0x200#16 0x2300#16 ∧ t.pc = 0x200#16 ∧ t.sp = 16)) := by decide

/-- CT9, CT10, CT12, CT13. -/
theorem test_seImm_sneImm :
    answers (withRegs [(3, 0x42#8)]) 0x3342 (fun t => decide (t.pc = 0x204#16)) ∧
    answers (withRegs [(3, 0x41#8)]) 0x3342 (fun t => decide (t.pc = 0x202#16)) ∧
    answers (withRegs [(3, 0x42#8)]) 0x4342 (fun t => decide (t.pc = 0x202#16)) ∧
    answers State.reset 0x4342 (fun t => decide (t.pc = 0x204#16)) := by decide

/-- CT14, CT15, CT17, CT18. -/
theorem test_seReg_sneReg :
    answers (withRegs [(1, 0x07#8), (2, 0x07#8)]) 0x5120 (fun t => decide (t.pc = 0x204#16)) ∧
    answers (withRegs [(1, 0x07#8), (2, 0x08#8)]) 0x5120 (fun t => decide (t.pc = 0x202#16)) ∧
    answers (withRegs [(1, 0x07#8), (2, 0x08#8)]) 0x9120 (fun t => decide (t.pc = 0x204#16)) ∧
    answers (withRegs [(1, 0x07#8)]) 0x9110 (fun t => decide (t.pc = 0x202#16)) := by decide

/-- CT20, CT21: the sum is not reduced, and V0 is the register added. -/
theorem test_jpV0 :
    answers (withRegs [(0, 0xFF#8)]) 0xBFFF (fun t => decide (t.pc = 0x10FE#16)) ∧
    answers (withRegs [(0, 0x01#8), (5, 0x80#8)]) 0xB200 (fun t => decide (t.pc = 0x201#16)) := by decide

/-- AL2. -/
theorem test_ldImm : answers State.reset 0x6F33 (fun t => decide (t.reg vF = 0x33#8)) := by decide

/-- AL3, AL4: the sum wraps, no flag. -/
theorem test_addImm :
    answers (withRegs [(0, 0xFF#8), (vF, 0x55#8)]) 0x7001 (fun t => decide (t.reg 0 = 0x00#8 ∧ t.reg vF = 0x55#8)) ∧
    answers (withRegs [(vF, 0x10#8)]) 0x7F01 (fun t => decide (t.reg vF = 0x11#8)) := by decide

/-- AL5. -/
theorem test_ldReg : answers (withRegs [(1, 0x33#8)]) 0x8010 (fun t => decide (t.reg 0 = 0x33#8 ∧ t.reg 1 = 0x33#8)) := by decide

/-- AL6, AL8, AL9: no flag. -/
theorem test_logic :
    answers (withRegs [(0, 0x0F#8), (1, 0xF0#8), (vF, 0x77#8)]) 0x8011 (fun t => decide (t.reg 0 = 0xFF#8 ∧ t.reg vF = 0x77#8)) ∧
    answers (withRegs [(0, 0xF0#8), (1, 0x3C#8)]) 0x8012 (fun t => decide (t.reg 0 = 0x30#8)) ∧
    answers (withRegs [(0, 0xA5#8), (1, 0x0F#8)]) 0x8003 (fun t => decide (t.reg 0 = 0x00#8)) := by decide

/-- W3, AL11. -/
theorem test_addReg :
    answers (withRegs [(0, 0xFF#8), (1, 0x01#8)]) 0x8014 (fun t => decide (t.reg 0 = 0x00#8 ∧ t.reg vF = 0x01#8)) ∧
    answers (withRegs [(0, 0x7F#8), (1, 0x01#8)]) 0x8014 (fun t => decide (t.reg 0 = 0x80#8 ∧ t.reg vF = 0x00#8)) := by decide

/-- AL12, AL14: VF as the destination holds the flag; VF as an operand is read first. -/
theorem test_addReg_vF :
    answers (withRegs [(vF, 0xFF#8), (1, 0x01#8)]) 0x8F14 (fun t => decide (t.reg vF = 0x01#8)) ∧
    answers (withRegs [(0, 0x10#8), (vF, 0xF0#8)]) 0x80F4 (fun t => decide (t.reg 0 = 0x00#8 ∧ t.reg vF = 0x01#8)) := by decide

/-- W4, AL16, AL19. -/
theorem test_subReg :
    answers (withRegs [(0, 0x01#8), (1, 0x03#8)]) 0x8015 (fun t => decide (t.reg 0 = 0xFE#8 ∧ t.reg vF = 0x00#8)) ∧
    answers (withRegs [(0, 0x42#8), (1, 0x42#8)]) 0x8015 (fun t => decide (t.reg 0 = 0x00#8 ∧ t.reg vF = 0x01#8)) ∧
    answers (withRegs [(vF, 0x01#8), (1, 0x03#8)]) 0x8F15 (fun t => decide (t.reg vF = 0x00#8)) := by decide

/-- AL25, AL26. -/
theorem test_subnReg :
    answers (withRegs [(0, 0x03#8), (1, 0x05#8)]) 0x8017 (fun t => decide (t.reg 0 = 0x02#8 ∧ t.reg vF = 0x01#8)) ∧
    answers (withRegs [(0, 0x05#8), (1, 0x03#8)]) 0x8017 (fun t => decide (t.reg 0 = 0xFE#8 ∧ t.reg vF = 0x00#8)) := by decide

/-- AL22, AL23. -/
theorem test_shr :
    answers (withRegs [(0, 0x04#8), (5, 0x99#8)]) 0x8056
      (fun t => decide (t.reg 0 = 0x02#8 ∧ t.reg vF = 0x00#8 ∧ t.reg 5 = 0x99#8)) ∧
    answers (withRegs [(vF, 0x03#8)]) 0x8F06 (fun t => decide (t.reg vF = 0x01#8)) := by decide

/-- AL28, AL29. -/
theorem test_shl :
    answers (withRegs [(0, 0x80#8)]) 0x800E (fun t => decide (t.reg 0 = 0x00#8 ∧ t.reg vF = 0x01#8)) ∧
    answers (withRegs [(0, 0x7F#8)]) 0x800E (fun t => decide (t.reg 0 = 0xFE#8 ∧ t.reg vF = 0x00#8)) := by decide

/-- AL33: whatever the draw, a mask of zero leaves zero. -/
theorem test_rnd (s : State) : ∃ t, exec (.rnd 0x0#4 0x00#8) s = .next t ∧ t.reg 0x0#4 = 0x00#8 ∧ t.draws = s.draws + 1 :=
  ⟨_, rfl, by simp, by simp⟩

/-- IM1. -/
theorem test_ldI : answers State.reset 0xA123 (fun t => decide (t.I = 0x123#16)) := by decide

/-- IM3, IM4. -/
theorem test_addIVx :
    answers ((withRegs [(0, 0x01#8)]).setI 0xFFF#16) 0xF01E (fun t => decide (t.I = 0x000#16 ∧ t.reg vF = 0x00#8)) ∧
    answers ((withRegs [(0, 0xFF#8)]).setI 0xF00#16) 0xF01E (fun t => decide (t.I = 0xFFF#16)) := by decide

/-- IM6, IM7. -/
theorem test_ldFVx :
    answers (withRegs [(0, 0x0A#8)]) 0xF029 (fun t => decide (t.I = 0x082#16)) ∧
    answers (withRegs [(0, 0x1F#8)]) 0xF029 (fun t => decide (t.I = 0x09B#16)) := by decide

/-- IM12, IM13. -/
theorem test_ldBVx :
    answers ((withRegs [(0, 123#8)]).setI 0xFFD#16) 0xF033 (fun t => decide
      (Memory.byteAt t.mem 0xFFD = 0x01#8 ∧ Memory.byteAt t.mem 0xFFE = 0x02#8 ∧ Memory.byteAt t.mem 0xFFF = 0x03#8)) ∧
    answers ((withRegs [(0, 123#8)]).setI 0xFFE#16) 0xF033 (fun t => decide
      (t.status = .faulted .memoryBoundsViolation 0x200#16 0xF033#16 ∧ t.pc = 0x200#16 ∧ Memory.byteAt t.mem 0xFFE = 0x00#8)) := by
  decide

/-- IM14, IM16. -/
theorem test_ldMemVx :
    answers ((withRegs [(0, 0x01#8), (1, 0x02#8)]).setI 0x300#16) 0xF155 (fun t => decide
      (Memory.byteAt t.mem 0x300 = 0x01#8 ∧ Memory.byteAt t.mem 0x301 = 0x02#8 ∧ t.I = 0x300#16)) ∧
    answers ((withRegs [(0, 0x01#8)]).setI 0xFFF#16) 0xF155 (fun t => decide
      (t.status = .faulted .memoryBoundsViolation 0x200#16 0xF155#16 ∧ Memory.byteAt t.mem 0xFFF = 0x00#8)) := by decide

/-- IM22, IM21. -/
theorem test_ldVxMem :
    answers (State.reset.setI 0x050#16) 0xF465 (fun t => decide
      (t.reg 0 = 0xF0#8 ∧ t.reg 1 = 0x90#8 ∧ t.reg 3 = 0x90#8 ∧ t.reg 4 = 0xF0#8 ∧ t.reg 5 = 0x00#8)) ∧
    answers ((withRegs [(0, 0x11#8), (1, 0x22#8)]).setI 0xFFF#16) 0xF165 (fun t => decide
      (t.status = .faulted .memoryBoundsViolation 0x200#16 0xF165#16 ∧ t.reg 0 = 0x11#8 ∧ t.reg 1 = 0x22#8)) := by decide

/-- DR3, DR8: four of eight pixels clipped; a collision. -/
theorem test_drw :
    answers (withBytes ((withRegs [(1, 60#8)]).setI 0x300#16) 0x300 [0xFF#8]) 0xD121
      (fun t => decide (litPixels t = 4 ∧ t.pixel 60 0 = true ∧ t.pixel 63 0 = true ∧ t.pixel 0 0 = false ∧ t.reg vF = 0x00#8)) ∧
    answers (withCorner (withBytes (State.reset.setI 0x301#16) 0x301 [0x80#8])) 0xD121
      (fun t => decide (litPixels t = 0 ∧ t.reg vF = 0x01#8)) := by decide +kernel

/-- DR11, under the policy wrap. -/
theorem test_drw_wrap :
    let t := drwWith .wrap 1 2 1 (withCorner (withBytes ((withRegs [(1, 60#8)]).setI 0x300#16) 0x300 [0xFF#8]))
    litPixels t = 7 ∧ t.pixel 63 0 = true ∧ t.pixel 0 0 = false ∧ t.pixel 3 0 = true ∧ t.reg vF = 0x01#8 := by decide +kernel

/-- KT1, KT4. -/
theorem test_skp :
    answers ((withRegs [(1, 0x0A#8)]).setKey 0xA true) 0xE19E (fun t => decide (t.pc = 0x204#16)) ∧
    answers (withRegs [(1, 0x10#8)]) 0xE19E (fun t => decide (t.pc = 0x202#16)) := by decide

/-- KT3, KT5. -/
theorem test_sknp :
    answers (withRegs [(1, 0x0A#8)]) 0xE1A1 (fun t => decide (t.pc = 0x204#16)) ∧
    answers (withRegs [(1, 0x10#8)]) 0xE1A1 (fun t => decide (t.pc = 0x204#16)) := by decide

/-- KT11. -/
theorem test_ldVxK : answers State.reset 0xF30A (fun t => decide (t.wait = some 3 ∧ t.kev = none ∧ t.pc = 0x202#16)) := by decide

/-- KT6, KT7, KT8. -/
theorem test_timers :
    answers { State.reset with DT := 0x3C#8 } 0xF207 (fun t => decide (t.reg 2 = 0x3C#8)) ∧
    answers (withRegs [(2, 0x3C#8)]) 0xF215 (fun t => decide (t.DT = 0x3C#8 ∧ t.ST = 0x00#8)) ∧
    answers (withRegs [(2, 0x05#8)]) 0xF218 (fun t => decide (t.ST = 0x05#8 ∧ t.DT = 0x00#8 ∧ t.toneActive = true)) := by decide

/-! ### The step around the instruction, and the transactions -/

/-- EN5: an unrecognised word faults. -/
theorem test_unknown_faults : answers State.reset 0x5121
    (fun t => decide (t.status = .faulted .unknownOpcode 0x200#16 0x5121#16 ∧ t.pc = 0x200#16)) := by decide

/-- EN3: a step at the last byte of memory halts; EN10: a latched key ends the wait with pc unchanged. -/
theorem test_step_halt_and_wait :
    step (State.reset.setPc 0x0FFF#16) = .next { State.reset with pc := 0x0FFF#16, status := .halted } ∧
    step { State.reset with wait := some 3, kev := some 0xC } = .next (withRegs [(3, 0x0C#8)]) := by
  constructor <;> rfl

/-- KT9, KT12, KT14, KT17. -/
theorem test_tick_setKey :
    { State.reset with DT := 2, ST := 1 }.tick.tick = { State.reset with DT := 0, ST := 0 } ∧
    (State.reset.beginWait 3).setKey 7 true = { State.reset with wait := some 3, kev := some 7, key := State.reset.key.set 7 true } ∧
    ((State.reset.setKey 2 true).beginWait 3 |>.setKey 5 true).kev = none ∧
    State.reset.setKey 0x10 true = State.reset := by decide +kernel

/-- LD2, LD6. -/
theorem test_load :
    State.reset.load [0x12#8, 0x00#8] = .ok (withBytes State.reset 0x200 [0x12#8]) ∧
    State.reset.load [0x12#8, 0x00#8, 0x00#8] = .error .oddLength := ⟨rfl, rfl⟩

/-! ### Witnesses: concrete states and operands that meet the hypotheses of the statements, at the ends of their ranges -/

theorem witness_DecodeEncodeRoundTrip : (Instr.sys 0x0EF#12).wellFormed = true ∧ (Instr.drw 0xF 0xF 0xF).wellFormed = true := by decide

theorem witness_EncodeDecodeRoundTrip : decodeWord 0x8FF6#16 = .ok (.shr 0xF 0xF) := by decide

/-- A word that a row selects, one that none selects, and two rows that match one word. -/
theorem witness_OpcodeMapSelectsOperation :
    (opcodeMap.find? fun r => 0x8014#16 &&& r.mask == r.pattern) = some ⟨0xF00F#16, 0x8004#16, "ADD_Vx__Vy"⟩ ∧
    (opcodeMap.find? fun r => 0x8008#16 &&& r.mask == r.pattern) = none ∧
    ∃ r ∈ opcodeMap, ∃ q ∈ opcodeMap, r ≠ q ∧ 0x00E0#16 &&& r.mask = r.pattern ∧ 0x00E0#16 &&& q.mask = q.pattern := by
  decide

theorem witness_DisassemblerIsSymmetric :
    decodeWord 0x8014#16 = .ok (.addReg 0 1) ∧ disassemble 0x8014#16 ≠ "UNKNOWN" ∧ disassemble 0x8008#16 = "UNKNOWN" := by decide

/-- At 0x200, and at the last address that can be fetched from. -/
theorem witness_StepRunsDecodedInstruction :
    (∃ s : State, s.status = .running ∧ s.wait = none ∧ s.pc.toNat ≤ 0x0FFE ∧
      decodeWord (Memory.byteAt s.mem s.pc.toNat ++ Memory.byteAt s.mem (s.pc.toNat + 1)) = .ok (.ldImm 0x0 0x42)) ∧
    ∃ s : State, s.status = .running ∧ s.wait = none ∧ s.pc.toNat = 0x0FFE ∧
      decodeWord (Memory.byteAt s.mem s.pc.toNat ++ Memory.byteAt s.mem (s.pc.toNat + 1)) = .ok (.sys 0x000) :=
  ⟨⟨withBytes State.reset 0x200 [0x60, 0x42], by decide⟩, ⟨State.reset.setPc 0x0FFE, by decide⟩⟩

theorem witness_FinishedEngineStays :
    State.reset.halt.status ≠ .running ∧ (State.reset.setStatus (.faulted .stackOverflow 0x200 0x2300)).status ≠ .running := by
  decide

theorem witness_StepPastEndHalts :
    ∃ s : State, s.status = .running ∧ s.wait = none ∧ s.pc.toNat = 0x0FFF :=
  ⟨State.reset.setPc 0x0FFF, by decide⟩

theorem witness_KeyWaitStepFetchesNothing :
    (∃ s : State, s.status = .running ∧ s.wait = some 3 ∧ s.kev = none) ∧
    ∃ s : State, s.status = .running ∧ s.wait = some 3 ∧ s.kev = some 0xF :=
  ⟨⟨State.reset.beginWait 3, by decide⟩, ⟨(State.reset.beginWait 3).latchKey 0xF, by decide⟩⟩

theorem witness_UnknownOpcodeFollowsPolicy :
    ∃ s : State, s.status = .running ∧ s.wait = none ∧ s.fetchWord = some 0x5121 ∧
      decodeWord 0x5121#16 = .error (.unknownOpcode 0x5121) :=
  ⟨withBytes State.reset 0x200 [0x51, 0x21], by decide⟩

/-- CT7: a CALL on a full return stack. -/
theorem witness_FaultEntryIsPrecise :
    ∃ s t : State, s.status = .running ∧ step s = .next t ∧ t.status = .faulted .stackOverflow 0x200 0x2300 :=
  ⟨withBytes (withEntries State.reset 16) 0x200 [0x23, 0x00], _, rfl, rfl, rfl⟩

/-- A step of each kind: an unrecognised word, a full return stack, a sprite past the end of memory. -/
theorem witness_FaultCausesAreExact :
    (∃ s t : State, s.status = .running ∧ s.wait = none ∧ step s = .next t ∧ t.status = .faulted .unknownOpcode 0x200 0x5121) ∧
    (∃ s t : State, s.status = .running ∧ s.wait = none ∧ step s = .next t ∧ t.status = .faulted .stackOverflow 0x200 0x2300) ∧
    ∃ s t : State, s.status = .running ∧ s.wait = none ∧ step s = .next t ∧
      t.status = .faulted .memoryBoundsViolation 0x200 0xD122 :=
  ⟨⟨withBytes State.reset 0x200 [0x51, 0x21], _, rfl, rfl, rfl, rfl⟩,
   ⟨withBytes (withEntries State.reset 16) 0x200 [0x23, 0x00], _, rfl, rfl, rfl, rfl⟩,
   ⟨withBytes (State.reset.setI 0xFFF) 0x200 [0xD1, 0x22], _, rfl, rfl, rfl, rfl⟩⟩

theorem witness_FaultingFormsEnterFault :
    (withEntries State.reset 16).sp.val = 16 ∧ 0x1000 < (State.reset.setI 0xFFE).I.toNat + 3 ∧
    0xFFF < (State.reset.setI 0xFFF).I.toNat + (0x1#4).toNat ∧ 0x1000 < (State.reset.setI 0xFFF).I.toNat + (0x2#4).toNat := by
  decide

/-- The reset state meets the invariant; its step is that of SYS at 0x200. -/
theorem witness_StepKeepsInvariant : State.reset.Inv ∧ ∃ t, step State.reset = .next t :=
  ⟨{ mem_wf := Memory.wf_nil
     index_le := by decide
     pc_le := by decide
     stack_le := by simp [State.reset]
     kev_waits := by decide
     wait_runs := by decide
     halted_pc := by decide
     fault_record := fun _ _ _ h => Status.noConfusion h }, _, rfl⟩

theorem witness_TransactionsKeepInvariant :
    ∃ b b' : Block, b.state.Inv ∧ b.transact .step = .next (b', .stepped .continued) :=
  ⟨⟨State.reset, .fresh⟩, _, witness_StepKeepsInvariant.1, rfl⟩

theorem witness_SysChangesNothing : 0x0E1#12 ≠ 0x0E0#12 ∧ 0x0E1#12 ≠ 0x0EE#12 := by decide

theorem witness_CallPushesAndJumps :
    State.reset.sp.val < 16 ∧ (withEntries State.reset 15).sp.val < 16 ∧ (withEntries State.reset 16).sp.val = 16 := by decide

theorem witness_RetPopsOrDoesNothing :
    State.reset.sp.val = 0 ∧ (withEntries State.reset 1).sp.val = 0 + 1 ∧ (withEntries State.reset 16).sp.val = 15 + 1 := by decide

theorem witness_CallThenRetReturns :
    ∃ s t u : State, s.sp.val = 15 ∧ exec (.call 0x300) s = .next t ∧ u.stack = t.stack ∧ u.sp = t.sp :=
  ⟨withEntries State.reset 15, _, _, rfl, rfl, rfl, rfl⟩

theorem witness_ImmediateSkips : State.reset.reg 3 = 0x00#8 ∧ State.reset.reg 3 ≠ 0x42#8 := by decide

theorem witness_RegisterSkips :
    (0xF#4 : BitVec 4) ≠ 0x0#4 ∧ State.reset.reg 1 = State.reset.reg 2 ∧ (withRegs [(1, 7)]).reg 1 ≠ (withRegs [(1, 7)]).reg 2 := by decide

theorem witness_KeySkips :
    (((withRegs [(1, 0x0F)]).setKey 0xF true).reg 1).toNat = (0xF#4).toNat ∧
    ((withRegs [(1, 0x0F)]).setKey 0xF true).keyDown 0xF = true ∧ (withRegs [(1, 0x0F)]).keyDown 0xF = false ∧
    0x0F < ((withRegs [(1, 0x10)]).reg 1).toNat := by decide

theorem witness_ArithmeticSetsFlag : (0xE : RegIdx) ≠ vF := by decide

theorem witness_ShiftsSetFlagAndIgnoreVy : (0x0 : RegIdx) ≠ vF := by decide

theorem witness_OnlyRndReadsTheDraw : ∃ t, (∀ x kk, Instr.cls ≠ .rnd x kk) ∧ exec .cls State.reset = .next t :=
  ⟨_, by simp, rfl⟩

/-- A load that changes V0, an add whose flag changes VF, and a running flag writer that completes. -/
theorem witness_RegistersChangeOnlyAsNamed :
    (∃ t, exec (.ldImm 0 0x33) State.reset = .next t ∧ t.reg 0 ≠ State.reset.reg 0) ∧
    ∃ t, exec (.addReg 0 1) (withRegs [(0, 0xFF), (1, 0x01)]) = .next t ∧ t.reg vF ≠ (withRegs [(0, 0xFF), (1, 0x01)]).reg vF ∧
      writesFlag (.addReg 0 1) = true ∧ (withRegs [(0, 0xFF), (1, 0x01)]).status = .running ∧ t.status = .running :=
  ⟨⟨_, rfl, by decide⟩, ⟨_, rfl, by decide, rfl, rfl, rfl⟩⟩

theorem witness_BcdStoresDigits :
    (State.reset.setI 0xFFD).I.toNat + 3 ≤ 4096 ∧ 4096 < (State.reset.setI 0xFFE).I.toNat + 3 := by decide

theorem witness_RegisterStore : (State.reset.setI 0xFF0).I.toNat + (0xF#4).toNat + 1 ≤ 4096 := by decide

theorem witness_RegisterLoad : (State.reset.setI 0xFFF).I.toNat + (0x0#4).toNat + 1 ≤ 4096 := by decide

theorem witness_StoreThenLoadRestores :
    ∃ s t u : State, s.I.toNat + (0xF#4).toNat + 1 ≤ 4096 ∧ exec (.ldMemVx 0xF) s = .next t ∧ u.mem = t.mem ∧ u.I = s.I :=
  ⟨State.reset.setI 0xFF0, _, _, by decide, rfl, rfl, rfl⟩

/-- A digit stored at the last byte of memory, and a register stored there. -/
theorem witness_MemoryWrittenOnlyByStores :
    (∃ s t : State, exec (.ldBVx 0) s = .next t ∧ Memory.byteAt t.mem 0xFFF ≠ Memory.byteAt s.mem 0xFFF) ∧
    ∃ s t : State, exec (.ldMemVx 0) s = .next t ∧ Memory.byteAt t.mem 0xFFF ≠ Memory.byteAt s.mem 0xFFF :=
  ⟨⟨(withRegs [(0, 123)]).setI 0xFFD, _, rfl, by decide⟩, ⟨(withRegs [(0, 0xAB)]).setI 0xFFF, _, rfl, by decide⟩⟩

theorem witness_FetchSeesStore :
    ∃ s t : State, s.I.toNat + (0xF#4).toNat + 1 ≤ 4096 ∧ (0xF#4).toNat = (0xE#4).toNat + 1 ∧ (0xF#4).toNat ≤ (0xF#4).toNat ∧
      exec (.ldMemVx 0xF) s = .next t :=
  ⟨State.reset.setI 0xFF0, _, by decide, by decide, by decide, rfl⟩

/-- The last byte of memory listed. -/
theorem witness_CanonicalMemoriesAgree :
    Memory.wf [(0xFFF, 0xAB)] ∧ ∀ a, a < 4096 → Memory.byteAt [(0xFFF, 0xAB)] a = Memory.byteAt [(0xFFF, 0xAB)] a :=
  ⟨by decide, fun _ _ => rfl⟩

theorem witness_DrwXorsSprite : (State.reset.setI 0xFFF).I.toNat + (0x1#4).toNat ≤ 4096 ∧ State.reset.I.toNat + (0x0#4).toNat ≤ 4096 := by
  decide

/-- A glyph drawn and drawn again. -/
theorem witness_DrawTwiceRestores :
    ∃ s t u v : State, s.I.toNat + (0x5#4).toNat ≤ 4096 ∧ exec (.drw 1 2 5) s = .next t ∧ u.disp = t.disp ∧ u.mem = s.mem ∧
      u.I = s.I ∧ u.reg 1 = s.reg 1 ∧ u.reg 2 = s.reg 2 ∧ exec (.drw 1 2 5) u = .next v :=
  ⟨State.reset.setI 0x069, _, (drwWith Param.spriteEdge 1 2 5 (State.reset.setI 0x069)), _, by decide, rfl, rfl, rfl, rfl, rfl, rfl, rfl⟩

theorem witness_DisplayWrittenOnlyByClsAndDrw :
    (∃ s t : State, exec .cls s = .next t ∧ t.disp ≠ s.disp) ∧
    ∃ b b' : Block, b.transact .reset = .next (b', .done) ∧ b'.state.disp ≠ b.state.disp :=
  ⟨⟨withCorner State.reset, _, rfl, by decide +kernel⟩, ⟨⟨withCorner State.reset, .begun⟩, _, rfl, by decide +kernel⟩⟩

/-- An index that names no key, a press that ends a wait, and a press that does not. -/
theorem witness_SetKeyWritesAndLatches :
    0x0F < 0x10 ∧
    ((∀ j, (State.reset.beginWait 3).keyDown j = false) ∧ (State.reset.beginWait 3).wait ≠ none ∧ (State.reset.beginWait 3).kev = none) ∧
    ¬((∀ j, ((State.reset.setKey 2 true).beginWait 3).keyDown j = false) ∧ ((State.reset.setKey 2 true).beginWait 3).wait ≠ none) ∧
    (0x2 : KeyIdx) ≠ 0xF := by decide

theorem witness_KeyWaitEndsOnFirstPress :
    (∃ s t : State, s.status = .running ∧ exec (.ldVxK 3) s = .next t ∧ ∀ j, s.keyDown j = false) ∧
    ∃ s t : State, s.status = .running ∧ exec (.ldVxK 3) s = .next t ∧ s.keyDown 2 = true :=
  ⟨⟨State.reset, _, rfl, rfl, by decide⟩, ⟨State.reset.setKey 2 true, _, rfl, rfl, by decide⟩⟩

/-- An instruction that changes each field: I, the return stack and pc, a timer, the wait, status. -/
theorem witness_FieldsChangeOnlyByTheirWriters :
    (∃ t, exec (.ldI 0xFFF) State.reset = .next t ∧ t.I ≠ State.reset.I) ∧
    (∃ t, exec (.call 0x300) State.reset = .next t ∧ t.stack ≠ State.reset.stack ∧ t.sp ≠ State.reset.sp ∧ t.pc ≠ State.reset.pc) ∧
    (∃ s t : State, exec (.ldDTVx 2) s = .next t ∧ t.DT ≠ s.DT) ∧ (∃ s t : State, exec (.ldSTVx 2) s = .next t ∧ t.ST ≠ s.ST) ∧
    (∃ t, exec (.ldVxK 3) State.reset = .next t ∧ t.wait ≠ State.reset.wait) ∧
    ∃ s t : State, exec (.ldBVx 0) s = .next t ∧ t.status ≠ s.status ∧ t.pc ≠ s.pc :=
  ⟨⟨_, rfl, by decide⟩, ⟨_, rfl, by decide, by decide, by decide⟩, ⟨withRegs [(2, 5)], _, rfl, by decide⟩,
   ⟨withRegs [(2, 5)], _, rfl, by decide⟩, ⟨_, rfl, by decide⟩, ⟨State.reset.setI 0xFFE, _, rfl, by decide, by decide⟩⟩

theorem witness_LoadCopiesImage :
    ((List.replicate 3584 0x00#8).length ≤ 3584 ∧ (List.replicate 3584 0x00#8).length % 2 = 0) ∧
    3584 < (List.replicate 3585 0x00#8).length ∧ ([0x12#8, 0x00#8, 0x00#8].length ≤ 3584 ∧ [0x12#8, 0x00#8, 0x00#8].length % 2 = 1) := by
  rw [List.length_replicate, List.length_replicate]
  decide

/-- The parameters with another font table, at the highest address there is for one. -/
def otherFont : Params :=
  { Param.values with fontBase := 0x1B0, fontGlyphs := List.replicate 80 0xA5#8, spriteEdge := .wrap, unknownOpcodePolicy := .skip }

/-- The table's bytes at its two ends, zeros before it, after it, and where the table of Param.values stands (R38, R39). -/
theorem test_reset_font :
    ([0x1AF, 0x1B0, 0x1FF, 0x200, 0x050].map fun a => Memory.byteAt (State.resetWith otherFont).mem a) =
      [0x00#8, 0xA5#8, 0xA5#8, 0x00#8, 0x00#8] := by decide +kernel

/-- EN7: under the policy skip. -/
theorem test_unknown_skips :
    stepWith otherFont (State.reset.withFetchWord 16 0x5121) = .next ((State.reset.withFetchWord 16 0x5121).setPc 0x202#16) := by rfl

theorem witness_ResetTakesAnyFont : Param.values.legal ∧ otherFont.legal := by decide

/-- An instruction that reads no parameter, a sprite that ends at the last byte of memory and one that passes it; a step of each kind; a LOAD
taken and one refused, a STEP refused and one made, and a transaction that reads no parameter. -/
theorem witness_StepTakesAnyParameters :
    ((∀ x, Instr.cls ≠ .ldFVx x) ∧ ∀ x y n, Instr.cls ≠ .drw x y n) ∧
    ((State.reset.setI 0xFFF).I.toNat + (0x1#4).toNat ≤ 4096 ∧ 4096 < (State.reset.setI 0xFFF).I.toNat + (0x2#4).toNat) ∧
    (∃ s : State, s.status = .running ∧ s.wait = none ∧ s.fetchWord = some 0xF029 ∧ decodeWord 0xF029#16 = .ok (.ldFVx 0)) ∧
    (State.reset.halt.status ≠ .running ∧ (State.reset.beginWait 3).wait = some 3 ∧ (State.reset.beginWait 3).kev = none ∧
      ((State.reset.beginWait 3).latchKey 0xF).kev = some 0xF ∧ 0x0FFE < (State.reset.setPc 0x0FFF).pc.toNat) ∧
    (∃ b : Block, b.phase = .fresh ∧ b.state = { State.resetWith otherFont with draws := b.state.draws }) ∧
    (∃ b : Block, b.phase = .loadFailed) ∧ (∃ b : Block, b.phase ≠ .loadFailed ∧ ∃ t, stepWith otherFont b.state = .next t) ∧
    (Transaction.tick ≠ .reset ∧ Transaction.tick ≠ .step ∧ ∀ image, Transaction.tick ≠ .load image) ∧
    State.reset.Inv ∧ ∃ t, stepWith otherFont State.reset = .next t :=
  ⟨⟨by simp, by simp⟩, by decide, ⟨withBytes State.reset 0x200 [0xF0, 0x29], by decide⟩, by decide,
   ⟨⟨State.resetWith otherFont, .fresh⟩, rfl, rfl⟩, ⟨⟨State.reset, .loadFailed⟩, rfl⟩,
   ⟨⟨State.reset, .fresh⟩, by decide, _, rfl⟩, by simp, witness_StepKeepsInvariant.1, _, rfl⟩

/-- A load that succeeds and one that fails, a step, a run that never begins, a state that RESET does not give, a phase that stays fresh. -/
theorem witness_LoadOnlyInItsPlace :
    (∃ b, (⟨State.reset, .fresh⟩ : Block).transact (.load [0x12, 0x00]) = .next (b, .done)) ∧
    (∃ b, (⟨State.reset, .fresh⟩ : Block).transact (.load [0x12]) = .next (b, .loadFailed .oddLength) ∧ b.phase = .loadFailed) ∧
    ((⟨State.reset, .fresh⟩ : Block).phase = .fresh ∧ State.reset = { State.reset with draws := State.reset.draws }) ∧
    (∃ b r, (⟨State.reset, .fresh⟩ : Block).transact .step = .next (b, r) ∧ b.phase ≠ .fresh) ∧
    State.reset.setKey 0xF true ≠ { State.reset with draws := (State.reset.setKey 0xF true).draws } ∧
    ∃ b, (⟨State.reset, .fresh⟩ : Block).transact (.setKey 0xF true) = .next (b, .done) ∧ b.phase = .fresh :=
  ⟨⟨_, rfl⟩, ⟨_, rfl, rfl⟩, ⟨rfl, rfl⟩, ⟨_, _, rfl, by decide⟩, by decide, ⟨_, rfl, rfl⟩⟩

/-- A STEP that halts, and the STEP of an engine that has halted and of one that has faulted. -/
theorem witness_ReadsReportState :
    (∃ b, (⟨State.reset.setPc 0x0FFF, .begun⟩ : Block).transact .step = .next (b, .stepped .halted) ∧ b.state.status = .halted) ∧
    (∃ b : Block, b.phase ≠ .loadFailed ∧ b.state.status = .halted) ∧
    ∃ b : Block, b.phase ≠ .loadFailed ∧ b.state.status = .faulted .stackOverflow 0x200 0x2300 :=
  ⟨⟨_, rfl, rfl⟩, ⟨⟨State.reset.halt, .begun⟩, by decide⟩,
   ⟨⟨State.reset.setStatus (.faulted .stackOverflow 0x200 0x2300), .begun⟩, by decide⟩⟩

end Sys2Proof.Tests
end

/-! # Proofs: the fields of a word and the opcode map (30_encoding.md R71, R80) -/

namespace Sys2Proof

/-! ### The fields are fixed masks (R71) -/

/-- A range of bits, widened back to a word, is the word shifted down to the range under a mask of ones. -/
theorem setWidth_extractLsb'_eq_and (w : Word) (start len : Nat) :
    (w.extractLsb' start len).setWidth 16 = (w >>> start) &&& (BitVec.allOnes len).setWidth 16 := by
  ext k hk
  simp [BitVec.getElem_setWidth, Bool.and_comm]

/-- Nothing stands above the class nibble, so that the shift alone gives it. -/
theorem decodeFields_cls_setWidth (w : Word) : (decodeFields w).cls.setWidth 16 = w >>> 12 := by
  have := w.isLt
  refine BitVec.eq_of_toNat_eq ?_
  rw [BitVec.toNat_setWidth, decodeFields_cls_toNat, BitVec.toNat_ushiftRight, Nat.shiftRight_eq_div_pow]
  omega

/-- Settles O4: each field below the class is its shift under a mask of ones, the class is the shift alone. -/
theorem fieldsAreFixedMasks : Obligations.FieldsAreFixedMasks := by
  intro w
  refine ⟨decodeFields_raw w, ⟨decodeFields_cls_toNat w, decodeFields_cls_setWidth w⟩, ?_, ?_, ?_, ?_, ?_⟩
  · simpa [decodeFields] using setWidth_extractLsb'_eq_and w 0 12
  · exact setWidth_extractLsb'_eq_and w 8 4
  · exact setWidth_extractLsb'_eq_and w 4 4
  · simpa [decodeFields] using setWidth_extractLsb'_eq_and w 0 8
  · simpa [decodeFields] using setWidth_extractLsb'_eq_and w 0 4

/-! ### A decoded instruction encodes to its word, and so its row of the map matches the word -/

section EncodeOfSelect
variable {w : Word} {i : Instr}

theorem encode_of_selectClass0 (hc : (decodeFields w).cls = 0x0#4) (h : selectClass0 (decodeFields w) = .ok i) :
    encode i = w ∧ i.wellFormed = true := by
  have hw := wordNnn_decodeFields w
  rw [hc] at hw
  unfold selectClass0 at h
  split at h <;> cases h
  next hraw => exact ⟨hraw.symm, rfl⟩
  next hraw => exact ⟨hraw.symm, rfl⟩
  next hcls hret =>
    have hne0 : (decodeFields w).addr ≠ 0x0E0#12 := fun ha => hcls (by rw [decodeFields_raw, ← hw, ha]; rfl)
    have hneE : (decodeFields w).addr ≠ 0x0EE#12 := fun ha => hret (by rw [decodeFields_raw, ← hw, ha]; rfl)
    exact ⟨hw, by simp [Instr.wellFormed, hne0, hneE]⟩

theorem encode_of_selectClass5 (hc : (decodeFields w).cls = 0x5#4) (h : selectClass5 (decodeFields w) = .ok i) :
    encode i = w ∧ i.wellFormed = true := by
  have hw := wordXyn_decodeFields w
  unfold selectClass5 at h
  split at h <;> cases h
  next hn => exact ⟨by rwa [hc, hn] at hw, rfl⟩

theorem encode_of_selectClass8 (hc : (decodeFields w).cls = 0x8#4) (h : selectClass8 (decodeFields w) = .ok i) :
    encode i = w ∧ i.wellFormed = true := by
  have hw := wordXyn_decodeFields w
  unfold selectClass8 at h
  split at h <;> cases h
  all_goals next hn => exact ⟨by rwa [hc, hn] at hw, rfl⟩

theorem encode_of_selectClass9 (hc : (decodeFields w).cls = 0x9#4) (h : selectClass9 (decodeFields w) = .ok i) :
    encode i = w ∧ i.wellFormed = true := by
  have hw := wordXyn_decodeFields w
  unfold selectClass9 at h
  split at h <;> cases h
  next hn => exact ⟨by rwa [hc, hn] at hw, rfl⟩

theorem encode_of_selectClassE (hc : (decodeFields w).cls = 0xE#4) (h : selectClassE (decodeFields w) = .ok i) :
    encode i = w ∧ i.wellFormed = true := by
  have hw := wordXkk_decodeFields w
  unfold selectClassE at h
  split at h <;> cases h
  all_goals next hb => exact ⟨by rwa [hc, hb] at hw, rfl⟩

theorem encode_of_selectClassF (hc : (decodeFields w).cls = 0xF#4) (h : selectClassF (decodeFields w) = .ok i) :
    encode i = w ∧ i.wellFormed = true := by
  have hw := wordXkk_decodeFields w
  unfold selectClassF at h
  split at h <;> cases h
  all_goals next hb => exact ⟨by rwa [hc, hb] at hw, rfl⟩

/-- The class fixes the form of the word, and the word is the join of the fields of its form (R75). -/
theorem encode_of_decodeWord (h : decodeWord w = .ok i) : encode i = w ∧ i.wellFormed = true := by
  have hnnn := wordNnn_decodeFields w
  have hxkk := wordXkk_decodeFields w
  have hxyn := wordXyn_decodeFields w
  unfold decodeWord selectOp at h
  split at h
  next hc => exact encode_of_selectClass0 hc h
  next hc => cases h; exact ⟨by rwa [hc] at hnnn, rfl⟩
  next hc => cases h; exact ⟨by rwa [hc] at hnnn, rfl⟩
  next hc => cases h; exact ⟨by rwa [hc] at hxkk, rfl⟩
  next hc => cases h; exact ⟨by rwa [hc] at hxkk, rfl⟩
  next hc => exact encode_of_selectClass5 hc h
  next hc => cases h; exact ⟨by rwa [hc] at hxkk, rfl⟩
  next hc => cases h; exact ⟨by rwa [hc] at hxkk, rfl⟩
  next hc => exact encode_of_selectClass8 hc h
  next hc => exact encode_of_selectClass9 hc h
  next hc => cases h; exact ⟨by rwa [hc] at hnnn, rfl⟩
  next hc => cases h; exact ⟨by rwa [hc] at hnnn, rfl⟩
  next hc => cases h; exact ⟨by rwa [hc] at hxkk, rfl⟩
  next hc => cases h; exact ⟨by rwa [hc] at hxyn, rfl⟩
  next hc => exact encode_of_selectClassE hc h
  next => exact encode_of_selectClassF (by simp only [imp_false] at *; bv_omega) h

end EncodeOfSelect

open Laws in
/-- The family MatchesRow, joined: it holds of every instruction. -/
theorem matchesRow : ∀ i : Instr, MatchesRow.Statement i
  | .cls => MatchesRow.cls
  | .ret => MatchesRow.ret
  | .sys nnn => MatchesRow.sys nnn
  | .jp nnn => MatchesRow.jp nnn
  | .call nnn => MatchesRow.call nnn
  | .seImm x kk => MatchesRow.seImm x kk
  | .sneImm x kk => MatchesRow.sneImm x kk
  | .seReg x y => MatchesRow.seReg x y
  | .ldImm x kk => MatchesRow.ldImm x kk
  | .addImm x kk => MatchesRow.addImm x kk
  | .ldReg x y => MatchesRow.ldReg x y
  | .orReg x y => MatchesRow.orReg x y
  | .andReg x y => MatchesRow.andReg x y
  | .xorReg x y => MatchesRow.xorReg x y
  | .addReg x y => MatchesRow.addReg x y
  | .subReg x y => MatchesRow.subReg x y
  | .shr x y => MatchesRow.shr x y
  | .subnReg x y => MatchesRow.subnReg x y
  | .shl x y => MatchesRow.shl x y
  | .sneReg x y => MatchesRow.sneReg x y
  | .ldI nnn => MatchesRow.ldI nnn
  | .jpV0 nnn => MatchesRow.jpV0 nnn
  | .rnd x kk => MatchesRow.rnd x kk
  | .drw x y n => MatchesRow.drw x y n
  | .skp x => MatchesRow.skp x
  | .sknp x => MatchesRow.sknp x
  | .ldVxDT x => MatchesRow.ldVxDT x
  | .ldVxK x => MatchesRow.ldVxK x
  | .ldDTVx x => MatchesRow.ldDTVx x
  | .ldSTVx x => MatchesRow.ldSTVx x
  | .addIVx x => MatchesRow.addIVx x
  | .ldFVx x => MatchesRow.ldFVx x
  | .ldBVx x => MatchesRow.ldBVx x
  | .ldMemVx x => MatchesRow.ldMemVx x
  | .ldVxMem x => MatchesRow.ldVxMem x

theorem exists_row_of_decodeWord {w : Word} {i : Instr} (h : decodeWord w = .ok i) :
    ∃ r ∈ opcodeMap, w &&& r.mask = r.pattern ∧ r.mnemonic = i.mnemonic := by
  obtain ⟨hw, hwf⟩ := encode_of_decodeWord h
  exact hw ▸ matchesRow i hwf

/-! ### A word that a row matches is recognised -/

/-- The sub-key is one the class knows, where the class has sub-keys (R82). -/
def Fields.SubKeyKnown (d : Fields) : Prop :=
  (d.cls ∈ [0x5#4, 0x9#4] → d.nibble = 0x0#4) ∧
  (d.cls = 0x8#4 → d.nibble ∈ [0x0#4, 0x1#4, 0x2#4, 0x3#4, 0x4#4, 0x5#4, 0x6#4, 0x7#4, 0xE#4]) ∧
  (d.cls = 0xE#4 → d.byte ∈ [0x9E#8, 0xA1#8]) ∧
  (d.cls = 0xF#4 → d.byte ∈ [0x07#8, 0x0A#8, 0x15#8, 0x18#8, 0x1E#8, 0x29#8, 0x33#8, 0x55#8, 0x65#8])

theorem selectOp_ne_error_of_subKeyKnown {d : Fields} (hd : d.SubKeyKnown) (e : DecodeError) : selectOp d ≠ .error e := by
  obtain ⟨h59, h8, hE, hF⟩ := hd
  intro h
  unfold selectOp at h
  split at h <;> try cases h
  case h_1 =>
    unfold selectClass0 at h
    split at h <;> cases h
  case h_6 hc =>
    unfold selectClass5 at h
    split at h <;> cases h
    next hn => exact hn (h59 (by simp [hc]))
  case h_9 hc =>
    unfold selectClass8 at h
    split at h <;> cases h
    simp_all
  case h_10 hc =>
    unfold selectClass9 at h
    split at h <;> cases h
    next hn => exact hn (h59 (by simp [hc]))
  case h_15 hc =>
    unfold selectClassE at h
    split at h <;> cases h
    simp_all
  case h_16 =>
    have hc : d.cls = 0xF#4 := by
      simp only [imp_false] at *
      bv_omega
    unfold selectClassF at h
    split at h <;> cases h
    simp_all

/-- Every row of the map keeps the class, and the sub-key where its class has one; its pattern's sub-key is known. -/
theorem opcodeMap_keeps_subKey : ∀ r ∈ opcodeMap,
    (decodeFields r.mask).cls = 0xF#4 ∧ (decodeFields r.pattern).SubKeyKnown ∧
    ((decodeFields r.pattern).cls ∈ [0x5#4, 0x8#4, 0x9#4] → (decodeFields r.mask).nibble = 0xF#4) ∧
    ((decodeFields r.pattern).cls ∈ [0xE#4, 0xF#4] → (decodeFields r.mask).byte = 0xFF#8) := by
  unfold Fields.SubKeyKnown
  decide

section Matches
variable {w : Word} {r q : OpcodeRow}

/-! A field of the pattern is that of the word, where the row's mask keeps it. -/

theorem decodeFields_cls_of_matches (hm : (decodeFields r.mask).cls = 0xF#4) (hw : w &&& r.mask = r.pattern) :
    (decodeFields r.pattern).cls = (decodeFields w).cls :=
  calc (decodeFields r.pattern).cls
    _ = (decodeFields w).cls &&& (decodeFields r.mask).cls := hw ▸ BitVec.extractLsb'_and
    _ = (decodeFields w).cls := by rw [hm, Laws.MatchesRow.and_ones4]

theorem decodeFields_nibble_of_matches (hm : (decodeFields r.mask).nibble = 0xF#4) (hw : w &&& r.mask = r.pattern) :
    (decodeFields r.pattern).nibble = (decodeFields w).nibble :=
  calc (decodeFields r.pattern).nibble
    _ = (decodeFields w).nibble &&& (decodeFields r.mask).nibble := hw ▸ BitVec.extractLsb'_and
    _ = (decodeFields w).nibble := by rw [hm, Laws.MatchesRow.and_ones4]

theorem decodeFields_byte_of_matches (hm : (decodeFields r.mask).byte = 0xFF#8) (hw : w &&& r.mask = r.pattern) :
    (decodeFields r.pattern).byte = (decodeFields w).byte :=
  calc (decodeFields r.pattern).byte
    _ = (decodeFields w).byte &&& (decodeFields r.mask).byte := hw ▸ BitVec.extractLsb'_and
    _ = (decodeFields w).byte := by rw [hm, Laws.MatchesRow.and_ones8]

theorem subKeyKnown_of_matches (hr : r ∈ opcodeMap) (hw : w &&& r.mask = r.pattern) : (decodeFields w).SubKeyKnown := by
  obtain ⟨hm, ⟨h59, h8, hE, hF⟩, hnib, hbyte⟩ := opcodeMap_keeps_subKey r hr
  have hcls := decodeFields_cls_of_matches hm hw
  have hn (hc : (decodeFields r.pattern).cls ∈ [0x5#4, 0x8#4, 0x9#4]) := decodeFields_nibble_of_matches (hnib hc) hw
  have hb (hc : (decodeFields r.pattern).cls ∈ [0xE#4, 0xF#4]) := decodeFields_byte_of_matches (hbyte hc) hw
  unfold Fields.SubKeyKnown
  rw [← hcls]
  refine ⟨fun hc => ?_, fun hc => ?_, fun hc => ?_, fun hc => ?_⟩
  · have h589 : (decodeFields r.pattern).cls ∈ [0x5#4, 0x8#4, 0x9#4] := by
      rcases List.mem_pair.mp hc with hc | hc <;> simp [hc]
    rw [← hn h589]
    exact h59 hc
  · rw [← hn (by simp [hc])]
    exact h8 hc
  · rw [← hb (by simp [hc])]
    exact hE hc
  · rw [← hb (by simp [hc])]
    exact hF hc

theorem exists_decodeWord_of_matches (hr : r ∈ opcodeMap) (hw : w &&& r.mask = r.pattern) : ∃ i, decodeWord w = .ok i := by
  cases h : decodeWord w with
  | ok i => exact ⟨i, rfl⟩
  | error e => exact absurd h (selectOp_ne_error_of_subKeyKnown (subKeyKnown_of_matches hr hw) e)

/-! ### No word matches two rows, but for CLS and RET against SYS -/

/-- The row r is that of CLS or of RET, by its word, and q is that of SYS: the one precedence of the map (R80, R81). -/
abbrev OpcodeRow.PrecedesSys (r q : OpcodeRow) : Prop :=
  r.mask = 0xFFFF#16 ∧ (r.pattern = 0x00E0#16 ∨ r.pattern = 0x00EE#16) ∧ q.mnemonic = "SYS_addr"

/-- Patterns that agree on the bits both masks keep leave no other pair of rows: a finite check of the map. -/
theorem opcodeMap_overlap : ∀ r ∈ opcodeMap, ∀ q ∈ opcodeMap, r ≠ q → r.pattern &&& q.mask = q.pattern &&& r.mask →
    r.PrecedesSys q ∨ q.PrecedesSys r := by
  decide

theorem precedesSys_of_matches_two (hr : r ∈ opcodeMap) (hq : q ∈ opcodeMap) (hne : r ≠ q)
    (hwr : w &&& r.mask = r.pattern) (hwq : w &&& q.mask = q.pattern) : r.PrecedesSys q ∨ q.PrecedesSys r := by
  refine opcodeMap_overlap r hr q hq hne ?_
  rw [← hwr, ← hwq, BitVec.and_assoc, BitVec.and_comm r.mask, BitVec.and_assoc]

/-- A mask of ones leaves one word to match. -/
theorem eq_cls_or_ret_of_precedesSys (h : r.PrecedesSys q) (hw : w &&& r.mask = r.pattern) :
    w = 0x00E0#16 ∨ w = 0x00EE#16 := by
  obtain ⟨hm, hp, -⟩ := h
  have hwp : w = r.pattern := by rw [← hw, hm]; exact BitVec.and_allOnes.symm
  exact hwp ▸ hp

theorem two_rows_match_only_cls_ret (hr : r ∈ opcodeMap) (hq : q ∈ opcodeMap) (hne : r ≠ q)
    (hwr : w &&& r.mask = r.pattern) (hwq : w &&& q.mask = q.pattern) :
    (w = 0x00E0#16 ∨ w = 0x00EE#16) ∧ (r.mnemonic = "SYS_addr" ∨ q.mnemonic = "SYS_addr") := by
  rcases precedesSys_of_matches_two hr hq hne hwr hwq with h | h
  · exact ⟨eq_cls_or_ret_of_precedesSys h hwr, .inr h.2.2⟩
  · exact ⟨eq_cls_or_ret_of_precedesSys h hwq, .inl h.2.2⟩

end Matches

/-! ### The first row that matches -/

theorem decodeWord_of_first_row {w : Word} {r : OpcodeRow} (h : opcodeMap.find? (fun r => w &&& r.mask == r.pattern) = some r) :
    ∃ i, decodeWord w = .ok i ∧ i.mnemonic = r.mnemonic := by
  have hr : r ∈ opcodeMap := List.mem_of_find?_eq_some h
  have hwr : w &&& r.mask = r.pattern := by simpa using List.find?_some h
  obtain ⟨i, hi⟩ := exists_decodeWord_of_matches hr hwr
  obtain ⟨q, hq, hwq, hqi⟩ := exists_row_of_decodeWord hi
  by_cases hne : r = q
  · exact ⟨i, hi, by rw [hne, hqi]⟩
  · obtain ⟨hw | hw, -⟩ := two_rows_match_only_cls_ret hr hq hne hwr hwq
    · subst hw
      cases h
      exact ⟨.cls, rfl, rfl⟩
    · subst hw
      cases h
      exact ⟨.ret, rfl, rfl⟩

theorem decodeWord_of_no_row {w : Word} (h : opcodeMap.find? (fun r => w &&& r.mask == r.pattern) = none) :
    decodeWord w = .error (.unknownOpcode w) := by
  cases hw : decodeWord w with
  | error e => rw [decodeWord_error hw]
  | ok i =>
    obtain ⟨r, hr, hwr, -⟩ := exists_row_of_decodeWord hw
    exact absurd hwr (by simpa using List.find?_eq_none.mp h r hr)

/-- Settles O3: a word decodes exactly when a row matches it, to that row's operation; the rows that share a word put CLS and RET before SYS. -/
theorem opcodeMapSelectsOperation : Obligations.OpcodeMapSelectsOperation := by
  refine ⟨fun w => ?_, fun w r q hr hq hne => two_rows_match_only_cls_ret hr hq hne⟩
  split
  next r h => exact decodeWord_of_first_row h
  next h => exact decodeWord_of_no_row h

end Sys2Proof

/-! # Proofs: the control instructions that write pc at most (41_control.md R141, R142, R144-R147) -/

namespace Sys2Proof

/-! ### What the words of their classes decode to (R80-R83) -/

/-- A word of class 0 that is neither CLS nor RET is SYS (R81). -/
theorem selectClass0_of_ne {d : Fields} (hcls : d.raw ≠ 0x00E0#16) (hret : d.raw ≠ 0x00EE#16) :
    selectClass0 d = .ok (.sys d.addr) := by
  unfold selectClass0
  split
  next h => exact absurd h hcls
  next h => exact absurd h hret
  next => rfl

theorem selectClass5_of_ne {d : Fields} (hn : d.nibble ≠ 0x0#4) : selectClass5 d = .error (.unknownOpcode d.raw) := by
  unfold selectClass5
  split
  next h => exact absurd h hn
  next => rfl

theorem selectClass9_of_ne {d : Fields} (hn : d.nibble ≠ 0x0#4) : selectClass9 d = .error (.unknownOpcode d.raw) := by
  unfold selectClass9
  split
  next h => exact absurd h hn
  next => rfl

theorem wordNnn_inj {c : BitVec 4} {a b : Addr} (h : wordNnn c a = wordNnn c b) : a = b := by
  simpa using congrArg (fun w => (decodeFields w).addr) h

theorem decodeWord_sys {nnn : Addr} (hcls : nnn ≠ 0x0E0#12) (hret : nnn ≠ 0x0EE#12) :
    decodeWord (wordNnn 0x0#4 nnn) = .ok (.sys nnn) := by
  have hwcls : (decodeFields (wordNnn 0x0#4 nnn)).raw ≠ 0x00E0#16 := fun h => hcls (wordNnn_inj (c := 0x0#4) h)
  have hwret : (decodeFields (wordNnn 0x0#4 nnn)).raw ≠ 0x00EE#16 := fun h => hret (wordNnn_inj (c := 0x0#4) h)
  simp [decodeWord, selectOp, selectClass0_of_ne hwcls hwret]

theorem decodeWord_jp (nnn : Addr) : decodeWord (wordNnn 0x1#4 nnn) = .ok (.jp nnn) := by
  simp [decodeWord, selectOp]

theorem decodeWord_seImm (x : RegIdx) (kk : Byte) : decodeWord (wordXkk 0x3#4 x kk) = .ok (.seImm x kk) := by
  simp [decodeWord, selectOp]

theorem decodeWord_sneImm (x : RegIdx) (kk : Byte) : decodeWord (wordXkk 0x4#4 x kk) = .ok (.sneImm x kk) := by
  simp [decodeWord, selectOp]

theorem decodeWord_seReg (x y : RegIdx) : decodeWord (wordXyn 0x5#4 x y 0x0#4) = .ok (.seReg x y) := by
  simp [decodeWord, selectOp, selectClass5]

theorem decodeWord_sneReg (x y : RegIdx) : decodeWord (wordXyn 0x9#4 x y 0x0#4) = .ok (.sneReg x y) := by
  simp [decodeWord, selectOp, selectClass9]

theorem decodeWord_class5_of_ne (x y : RegIdx) {n : BitVec 4} (hn : n ≠ 0x0#4) :
    decodeWord (wordXyn 0x5#4 x y n) = .error (.unknownOpcode (wordXyn 0x5#4 x y n)) := by
  have hsel : selectClass5 (decodeFields (wordXyn 0x5#4 x y n)) = _ := selectClass5_of_ne (by simpa using hn)
  simp [decodeWord, selectOp, hsel, decodeFields_raw]

theorem decodeWord_class9_of_ne (x y : RegIdx) {n : BitVec 4} (hn : n ≠ 0x0#4) :
    decodeWord (wordXyn 0x9#4 x y n) = .error (.unknownOpcode (wordXyn 0x9#4 x y n)) := by
  have hsel : selectClass9 (decodeFields (wordXyn 0x9#4 x y n)) = _ := selectClass9_of_ne (by simpa using hn)
  simp [decodeWord, selectOp, hsel, decodeFields_raw]

end Sys2Proof

namespace Sys2Proof.Machine

/-! ### Operations that write pc and nothing else (R103, R148) -/

theorem State.onlyPc_setPc (s : State) (a : Word) : s.onlyPc (s.setPc a) :=
  ⟨rfl, s.setPc_reg a, fun _ => rfl⟩

theorem State.onlyPc_skipIf (s : State) (c : Bool) : s.onlyPc (s.skipIf c) :=
  ⟨s.skipIf_eq c, s.skipIf_reg c, fun a => congrArg (Memory.byteAt · a) (s.skipIf_mem c)⟩

/-- An instruction that is a skip on c: pc moves where p says so, stays where q says so, and nothing else changes. -/
theorem exec_skip {i : Instr} {s : State} {c : Bool} {p q : Prop} (hexec : exec i s = .next (s.skipIf c))
    (hp : p → c = true) (hq : q → c = false) :
    ∃ t, exec i s = .next t ∧ s.onlyPc t ∧ (p → t.pc = s.pc + 2#16) ∧ (q → t.pc = s.pc) :=
  ⟨s.skipIf c, hexec, s.onlyPc_skipIf c, fun h => by simp [hp h], fun h => by simp [hq h]⟩

/-! ### The obligations -/

/-- Settles O20: the join of class 0 and an address is injective, so that only the two excluded addresses give CLS and RET. -/
theorem sysChangesNothing : Obligations.SysChangesNothing :=
  fun _ => ⟨fun _ => rfl, decodeWord_sys⟩

/-- Settles O21: the target is the address operand, zero-extended. -/
theorem jpLoadsTarget : Obligations.JpLoadsTarget :=
  fun nnn => ⟨decodeWord_jp nnn, fun s => ⟨s.setPc (zextAddr nnn), rfl, zextAddr_toNat nnn, s.onlyPc_setPc _⟩⟩

/-- Settles O26: each is a skip on its comparison with the immediate. -/
theorem immediateSkips : Obligations.ImmediateSkips := by
  refine fun x kk => ⟨decodeWord_seImm x kk, decodeWord_sneImm x kk, fun s => ⟨?_, ?_⟩⟩
  · exact exec_skip rfl beq_iff_eq.mpr beq_eq_false_iff_ne.mpr
  · exact exec_skip rfl bne_iff_ne.mpr bne_eq_false_iff_eq.mpr

/-- Settles O27: each is a skip on its comparison of the registers, and its class has the nibble 0 alone. -/
theorem registerSkips : Obligations.RegisterSkips := by
  refine fun x y => ⟨decodeWord_seReg x y, decodeWord_sneReg x y,
    fun n hn => ⟨decodeWord_class5_of_ne x y hn, decodeWord_class9_of_ne x y hn⟩, fun s => ⟨?_, ?_⟩⟩
  · exact exec_skip rfl beq_iff_eq.mpr beq_eq_false_iff_ne.mpr
  · exact exec_skip rfl bne_iff_ne.mpr bne_eq_false_iff_eq.mpr

end Sys2Proof.Machine

/-! # Proofs: the register loads, the immediate add and the logic operations (42_alu.md R160, R161, R164-R167) -/

namespace Sys2Proof

/-! ### What their words decode to (R80, R82) -/

theorem decodeWord_ldImm (x : RegIdx) (kk : Byte) : decodeWord (wordXkk 0x6#4 x kk) = .ok (.ldImm x kk) := by
  simp [decodeWord, selectOp]

theorem decodeWord_addImm (x : RegIdx) (kk : Byte) : decodeWord (wordXkk 0x7#4 x kk) = .ok (.addImm x kk) := by
  simp [decodeWord, selectOp]

/-- The operation of a word of class 8 is left to the split by its nibble (R82). -/
theorem decodeWord_class8 (x y : RegIdx) (n : BitVec 4) :
    decodeWord (wordXyn 0x8#4 x y n) = selectClass8 (decodeFields (wordXyn 0x8#4 x y n)) := by
  simp [decodeWord, selectOp]

theorem decodeWord_ldReg (x y : RegIdx) : decodeWord (wordXyn 0x8#4 x y 0x0#4) = .ok (.ldReg x y) := by
  simp [decodeWord_class8, selectClass8]

theorem decodeWord_orReg (x y : RegIdx) : decodeWord (wordXyn 0x8#4 x y 0x1#4) = .ok (.orReg x y) := by
  simp [decodeWord_class8, selectClass8]

theorem decodeWord_andReg (x y : RegIdx) : decodeWord (wordXyn 0x8#4 x y 0x2#4) = .ok (.andReg x y) := by
  simp [decodeWord_class8, selectClass8]

theorem decodeWord_xorReg (x y : RegIdx) : decodeWord (wordXyn 0x8#4 x y 0x3#4) = .ok (.xorReg x y) := by
  simp [decodeWord_class8, selectClass8]

end Sys2Proof

namespace Sys2Proof.Machine

/-! ### Operations that write one register and nothing else (R22) -/

theorem State.onlyRegs_setReg (s : State) (x : RegIdx) (b : Byte) : s.onlyRegs (s.setReg x b) [x] :=
  ⟨rfl, fun _ hj => s.reg_setReg_of_ne x b (List.ne_of_not_mem_cons hj), fun _ => rfl⟩

/-- An instruction that writes the byte b to Vx: Vx is then b, and nothing else changes. -/
theorem exec_setReg {i : Instr} {s : State} {x : RegIdx} {b : Byte} (hexec : exec i s = .next (s.setReg x b)) :
    ∃ t, exec i s = .next t ∧ t.reg x = b ∧ s.onlyRegs t [x] :=
  ⟨s.setReg x b, hexec, s.reg_setReg_self x b, s.onlyRegs_setReg x b⟩

/-! ### The obligations -/

/-- Settles O29: each writes Vx alone, with the immediate or with the 8-bit sum. -/
theorem immediateLoadAndAdd : Obligations.ImmediateLoadAndAdd := by
  refine fun x kk => ⟨decodeWord_ldImm x kk, decodeWord_addImm x kk, fun s => ⟨exec_setReg rfl, ?_⟩⟩
  obtain ⟨t, ht, hsum, hframe⟩ := exec_setReg (i := .addImm x kk) (s := s) rfl
  exact ⟨t, ht, by rw [hsum, BitVec.toNat_add], hframe⟩

/-- Settles O30: each writes Vx alone, with Vy or with the bitwise operation of the two. -/
theorem copyAndLogic : Obligations.CopyAndLogic := by
  refine fun x y => ⟨decodeWord_ldReg x y, decodeWord_orReg x y, decodeWord_andReg x y, decodeWord_xorReg x y,
    fun s => ⟨exec_setReg rfl, ?_, ?_, ?_⟩⟩
  · obtain ⟨t, ht, hor, hframe⟩ := exec_setReg (i := .orReg x y) (s := s) rfl
    exact ⟨t, ht, hframe, fun b _ => by rw [hor, BitVec.getLsbD_or]⟩
  · obtain ⟨t, ht, hand, hframe⟩ := exec_setReg (i := .andReg x y) (s := s) rfl
    exact ⟨t, ht, hframe, fun b _ => by rw [hand, BitVec.getLsbD_and]⟩
  · obtain ⟨t, ht, hxor, hframe⟩ := exec_setReg (i := .xorReg x y) (s := s) rfl
    exact ⟨t, ht, hframe, fun b _ => by rw [hxor, BitVec.getLsbD_xor]⟩

end Sys2Proof.Machine

/-! # Proofs: the load of the index register (43_index_memory.md R190) -/

namespace Sys2Proof

/-! ### What its word decodes to (R80) -/

theorem decodeWord_ldI (nnn : Addr) : decodeWord (wordNnn 0xA#4 nnn) = .ok (.ldI nnn) := by
  simp [decodeWord, selectOp]

end Sys2Proof

namespace Sys2Proof.Machine

/-! ### The operation that writes I and nothing else (R24) -/

theorem State.setI_I_toNat (s : State) (v : Word) : (s.setI v).I.toNat = v.toNat % 4096 :=
  and_0x0FFF_toNat v

theorem State.onlyI_setI (s : State) (v : Word) : s.onlyI (s.setI v) :=
  ⟨rfl, s.setI_reg v, fun _ => rfl⟩

/-- The mask of R24 keeps a 12-bit address whole. -/
theorem State.setI_zextAddr_toNat (s : State) (nnn : Addr) : (s.setI (zextAddr nnn)).I.toNat = nnn.toNat := by
  rw [s.setI_I_toNat, zextAddr_toNat]
  exact Nat.mod_eq_of_lt nnn.isLt

/-! ### The obligation -/

/-- Settles O36: it writes I alone, with the address that the mask of I leaves as it is. -/
theorem ldILoadsIndex : Obligations.LdILoadsIndex :=
  fun nnn => ⟨decodeWord_ldI nnn, fun s => ⟨s.setI (zextAddr nnn), rfl, s.setI_zextAddr_toNat nnn, s.onlyI_setI _⟩⟩

end Sys2Proof.Machine

/-! # Proofs: the clear of the display (44_display.md R210) -/

namespace Sys2Proof

/-! ### What its word decodes to (R80) -/

theorem decodeWord_cls : decodeWord 0x00E0#16 = .ok .cls := rfl

end Sys2Proof

namespace Sys2Proof.Machine

/-! ### The operation that writes the display and nothing else (R32) -/

@[simp] theorem State.pixel_setDisp (s : State) (d : Display) (px : Fin 64) (py : Fin 32) :
    (s.setDisp d).pixel px py = d.pixel px py := rfl

theorem State.sameBytes_setDisp (s : State) (d : Display) : s.sameBytes (s.setDisp d) :=
  fun a => congrArg (Memory.byteAt · a) (s.setDisp_mem d)

theorem exec_cls (s : State) : exec .cls s = .next (s.setDisp Display.blank) := rfl

/-! ### The obligation -/

/-- Settles O45: it writes the display alone, with the blank one, whose pixels are all off. -/
theorem clsClearsEveryPixel : Obligations.ClsClearsEveryPixel := by
  refine ⟨decodeWord_cls, fun s => ⟨s.setDisp Display.blank, exec_cls s, fun px py => ?off, ?frame⟩⟩
  case off => rw [State.pixel_setDisp, Display.pixel_blank]
  case frame => exact ⟨rfl, s.setDisp_reg Display.blank, s.sameBytes_setDisp Display.blank⟩

end Sys2Proof.Machine

/-! # Proofs: the timer transfers (45_keys_timers.md R234-R236) -/

namespace Sys2Proof

/-! ### What their words decode to (R80, R82) -/

/-- The operation of a word of class F is left to the split by its byte (R82). -/
theorem decodeWord_classF (x : RegIdx) (kk : Byte) :
    decodeWord (wordXkk 0xF#4 x kk) = selectClassF (decodeFields (wordXkk 0xF#4 x kk)) := by
  simp [decodeWord, selectOp]

theorem decodeWord_ldVxDT (x : RegIdx) : decodeWord (wordXkk 0xF#4 x 0x07#8) = .ok (.ldVxDT x) := by
  simp [decodeWord_classF, selectClassF]

theorem decodeWord_ldDTVx (x : RegIdx) : decodeWord (wordXkk 0xF#4 x 0x15#8) = .ok (.ldDTVx x) := by
  simp [decodeWord_classF, selectClassF]

theorem decodeWord_ldSTVx (x : RegIdx) : decodeWord (wordXkk 0xF#4 x 0x18#8) = .ok (.ldSTVx x) := by
  simp [decodeWord_classF, selectClassF]

end Sys2Proof

namespace Sys2Proof.Machine

/-! ### The timers and the tone (R30, R31, R266) -/

theorem State.toneActive_iff (s : State) : s.toneActive = true ↔ s.ST ≠ 0x00#8 :=
  bne_iff_ne

theorem exec_ldDTVx (x : RegIdx) (s : State) : exec (.ldDTVx x) s = .next (s.setDT (s.reg x)) := rfl

theorem exec_ldSTVx (x : RegIdx) (s : State) : exec (.ldSTVx x) s = .next (s.setST (s.reg x)) := rfl

/-! ### The obligation -/

/-- Settles O49: the read writes Vx alone, the other two their timer alone; the tone is then active as the byte written to ST says. -/
theorem timerTransfers : Obligations.TimerTransfers := by
  refine fun x => ⟨decodeWord_ldVxDT x, decodeWord_ldDTVx x, decodeWord_ldSTVx x,
    fun s => ⟨exec_setReg rfl, exec_ldDTVx x s, s.setST (s.reg x), exec_ldSTVx x s, rfl, ?tone⟩⟩
  case tone => rw [State.toneActive_iff, State.setST_ST]

end Sys2Proof.Machine

/-! # Proofs: the decoder and the encoder as inverses, the unrecognised words and the mnemonics (30_encoding.md R75, R80-R83, R91) -/

namespace Sys2Proof

/-! ### What the words of the other operations decode to (R80, R82) -/

theorem decodeWord_ret : decodeWord 0x00EE#16 = .ok .ret := rfl

theorem decodeWord_call (nnn : Addr) : decodeWord (wordNnn 0x2#4 nnn) = .ok (.call nnn) := by
  simp [decodeWord, selectOp]

theorem decodeWord_jpV0 (nnn : Addr) : decodeWord (wordNnn 0xB#4 nnn) = .ok (.jpV0 nnn) := by
  simp [decodeWord, selectOp]

theorem decodeWord_rnd (x : RegIdx) (kk : Byte) : decodeWord (wordXkk 0xC#4 x kk) = .ok (.rnd x kk) := by
  simp [decodeWord, selectOp]

theorem decodeWord_drw (x y : RegIdx) (n : BitVec 4) : decodeWord (wordXyn 0xD#4 x y n) = .ok (.drw x y n) := by
  simp [decodeWord, selectOp]

theorem decodeWord_addReg (x y : RegIdx) : decodeWord (wordXyn 0x8#4 x y 0x4#4) = .ok (.addReg x y) := by
  simp [decodeWord_class8, selectClass8]

theorem decodeWord_subReg (x y : RegIdx) : decodeWord (wordXyn 0x8#4 x y 0x5#4) = .ok (.subReg x y) := by
  simp [decodeWord_class8, selectClass8]

theorem decodeWord_shr (x y : RegIdx) : decodeWord (wordXyn 0x8#4 x y 0x6#4) = .ok (.shr x y) := by
  simp [decodeWord_class8, selectClass8]

theorem decodeWord_subnReg (x y : RegIdx) : decodeWord (wordXyn 0x8#4 x y 0x7#4) = .ok (.subnReg x y) := by
  simp [decodeWord_class8, selectClass8]

theorem decodeWord_shl (x y : RegIdx) : decodeWord (wordXyn 0x8#4 x y 0xE#4) = .ok (.shl x y) := by
  simp [decodeWord_class8, selectClass8]

theorem decodeWord_skp (x : RegIdx) : decodeWord (wordXkk 0xE#4 x 0x9E#8) = .ok (.skp x) := by
  simp [decodeWord, selectOp, selectClassE]

theorem decodeWord_sknp (x : RegIdx) : decodeWord (wordXkk 0xE#4 x 0xA1#8) = .ok (.sknp x) := by
  simp [decodeWord, selectOp, selectClassE]

theorem decodeWord_ldVxK (x : RegIdx) : decodeWord (wordXkk 0xF#4 x 0x0A#8) = .ok (.ldVxK x) := by
  simp [decodeWord_classF, selectClassF]

theorem decodeWord_addIVx (x : RegIdx) : decodeWord (wordXkk 0xF#4 x 0x1E#8) = .ok (.addIVx x) := by
  simp [decodeWord_classF, selectClassF]

theorem decodeWord_ldFVx (x : RegIdx) : decodeWord (wordXkk 0xF#4 x 0x29#8) = .ok (.ldFVx x) := by
  simp [decodeWord_classF, selectClassF]

theorem decodeWord_ldBVx (x : RegIdx) : decodeWord (wordXkk 0xF#4 x 0x33#8) = .ok (.ldBVx x) := by
  simp [decodeWord_classF, selectClassF]

theorem decodeWord_ldMemVx (x : RegIdx) : decodeWord (wordXkk 0xF#4 x 0x55#8) = .ok (.ldMemVx x) := by
  simp [decodeWord_classF, selectClassF]

theorem decodeWord_ldVxMem (x : RegIdx) : decodeWord (wordXkk 0xF#4 x 0x65#8) = .ok (.ldVxMem x) := by
  simp [decodeWord_classF, selectClassF]

/-! ### Decode of encode, and encode of decode -/

/-- Only SYS has operands that its word does not stand for: the two that well-formedness excludes (R81). -/
theorem decodeWord_encode : ∀ i : Instr, i.wellFormed = true → decodeWord (encode i) = .ok i
  | .sys nnn, hwf => by
    obtain ⟨hcls, hret⟩ : nnn ≠ 0x0E0#12 ∧ nnn ≠ 0x0EE#12 := by simpa [Instr.wellFormed] using hwf
    exact decodeWord_sys hcls hret
  | .cls, _ => decodeWord_cls
  | .ret, _ => decodeWord_ret
  | .jp nnn, _ => decodeWord_jp nnn
  | .call nnn, _ => decodeWord_call nnn
  | .seImm x kk, _ => decodeWord_seImm x kk
  | .sneImm x kk, _ => decodeWord_sneImm x kk
  | .seReg x y, _ => decodeWord_seReg x y
  | .ldImm x kk, _ => decodeWord_ldImm x kk
  | .addImm x kk, _ => decodeWord_addImm x kk
  | .ldReg x y, _ => decodeWord_ldReg x y
  | .orReg x y, _ => decodeWord_orReg x y
  | .andReg x y, _ => decodeWord_andReg x y
  | .xorReg x y, _ => decodeWord_xorReg x y
  | .addReg x y, _ => decodeWord_addReg x y
  | .subReg x y, _ => decodeWord_subReg x y
  | .shr x y, _ => decodeWord_shr x y
  | .subnReg x y, _ => decodeWord_subnReg x y
  | .shl x y, _ => decodeWord_shl x y
  | .sneReg x y, _ => decodeWord_sneReg x y
  | .ldI nnn, _ => decodeWord_ldI nnn
  | .jpV0 nnn, _ => decodeWord_jpV0 nnn
  | .rnd x kk, _ => decodeWord_rnd x kk
  | .drw x y n, _ => decodeWord_drw x y n
  | .skp x, _ => decodeWord_skp x
  | .sknp x, _ => decodeWord_sknp x
  | .ldVxDT x, _ => decodeWord_ldVxDT x
  | .ldVxK x, _ => decodeWord_ldVxK x
  | .ldDTVx x, _ => decodeWord_ldDTVx x
  | .ldSTVx x, _ => decodeWord_ldSTVx x
  | .addIVx x, _ => decodeWord_addIVx x
  | .ldFVx x, _ => decodeWord_ldFVx x
  | .ldBVx x, _ => decodeWord_ldBVx x
  | .ldMemVx x, _ => decodeWord_ldMemVx x
  | .ldVxMem x, _ => decodeWord_ldVxMem x

/-- Settles O1: each operation's word decodes to it, and the decoder on bytes joins the two bytes of a word back. -/
theorem decodeEncodeRoundTrip : Obligations.DecodeEncodeRoundTrip := by
  intro i hwf
  have hword : decodeWord (encode i) = .ok i := decodeWord_encode i hwf
  refine ⟨hword, fun rest => ?_⟩
  rw [decode_bytesOfWord, hword]

/-- Settles O2: the class fixes the form of a word, and the word is the join of the fields that its instruction carries. -/
theorem encodeDecodeRoundTrip : Obligations.EncodeDecodeRoundTrip :=
  fun _ _ h => encode_of_decodeWord h

/-! ### The unrecognised words (R83) -/

/-- A word is rejected exactly when its sub-key is none that its class knows. -/
theorem decodeWord_eq_error_iff (w : Word) :
    decodeWord w = .error (.unknownOpcode w) ↔ ¬ (decodeFields w).SubKeyKnown := by
  constructor
  · exact fun h hknown => selectOp_ne_error_of_subKeyKnown hknown _ h
  · intro hunknown
    cases h : decodeWord w with
    | error e => rw [decodeWord_error h]
    | ok i =>
      obtain ⟨r, hr, hw, -⟩ := exists_row_of_decodeWord h
      exact absurd (subKeyKnown_of_matches hr hw) hunknown

/-- The sub-keys that are known, as numbers. -/
theorem subKeyKnown_iff (w : Word) : (decodeFields w).SubKeyKnown ↔
    ((w.toNat / 4096 = 0x5 ∨ w.toNat / 4096 = 0x9) → w.toNat % 16 = 0) ∧
    (w.toNat / 4096 = 0x8 → w.toNat % 16 ∈ [0x0, 0x1, 0x2, 0x3, 0x4, 0x5, 0x6, 0x7, 0xE]) ∧
    (w.toNat / 4096 = 0xE → w.toNat % 256 ∈ [0x9E, 0xA1]) ∧
    (w.toNat / 4096 = 0xF → w.toNat % 256 ∈ [0x07, 0x0A, 0x15, 0x18, 0x1E, 0x29, 0x33, 0x55, 0x65]) := by
  simp [Fields.SubKeyKnown, BitVec.toNat_eq, decodeFields_cls_toNat, decodeFields_nibble_toNat, decodeFields_byte_toNat]

/-- Settles O5: the table of R83 lists the sub-keys that are not known; of class 8, the other seven nibbles. -/
theorem unrecognisedWordsAreRejected : Obligations.UnrecognisedWordsAreRejected := by
  intro w
  have hnibble : w.toNat % 16 < 16 := Nat.mod_lt _ (by decide)
  rw [decodeWord_eq_error_iff, subKeyKnown_iff]
  simp only [List.mem_cons, List.not_mem_nil, or_false]
  omega

/-! ### The mnemonics (R91) -/

/-- No two rows of the map share a mnemonic: a finite check of the map. -/
theorem opcodeMap_mnemonic_inj : ∀ r ∈ opcodeMap, ∀ q ∈ opcodeMap, r.mnemonic = q.mnemonic → r = q := by
  decide

theorem opcodeMap_mnemonic_ne_unknown : ∀ r ∈ opcodeMap, r.mnemonic ≠ "UNKNOWN" := by
  decide

theorem existsUnique_row_of_decodeWord {w : Word} {i : Instr} (h : decodeWord w = .ok i) :
    ∃! r, r ∈ opcodeMap ∧ r.mnemonic = i.mnemonic := by
  obtain ⟨r, hr, -, hri⟩ := exists_row_of_decodeWord h
  exact ⟨r, ⟨hr, hri⟩, fun q ⟨hq, hqi⟩ => opcodeMap_mnemonic_inj q hq r hr (hqi.trans hri.symm)⟩

theorem disassemble_of_ok {w : Word} {i : Instr} (h : decodeWord w = .ok i) : disassemble w = i.mnemonic := by
  simp [disassemble, h]

theorem disassemble_of_error {w : Word} {e : DecodeError} (h : decodeWord w = .error e) : disassemble w = "UNKNOWN" := by
  simp [disassemble, h]

/-- Settles O6: a word that decodes has its row's mnemonic, no row bears "UNKNOWN", and no two rows share theirs. -/
theorem disassemblerIsSymmetric : Obligations.DisassemblerIsSymmetric := by
  refine ⟨fun w => ?_, fun w i h => ⟨disassemble_of_ok h, existsUnique_row_of_decodeWord h⟩⟩
  cases h : decodeWord w with
  | error e => simp [disassemble_of_error h, decodeWord_error h]
  | ok i =>
    obtain ⟨r, hr, -, hri⟩ := exists_row_of_decodeWord h
    have hne : i.mnemonic ≠ "UNKNOWN" := hri ▸ opcodeMap_mnemonic_ne_unknown r hr
    simp [disassemble_of_ok h, hne]

/-- Settles O7: the decoder, run on each of the words. -/
theorem sampleWordsDecode : Obligations.SampleWordsDecode := by
  unfold Obligations.SampleWordsDecode
  decide

end Sys2Proof

/-! # Proofs: what the execution of an instruction can do, said once (10_state.md, 40_engine.md R106) -/

namespace Sys2Proof.Machine

/-! ### The faults an instruction has a cause for (R251) -/

/-- The instruction, on s, has a cause for the fault: the rows of R251 that a decoded instruction can raise. -/
def State.faultCause (s : State) (i : Instr) : FaultKind → Prop
  | .unknownOpcode => False
  | .stackOverflow => s.sp.val = 16 ∧ ∃ nnn, i = .call nnn
  | .memoryBoundsViolation =>
    (∃ x, i = .ldBVx x ∧ Config.memSize < s.I.toNat + 3) ∨
    (∃ x, i = .ldMemVx x ∧ Config.memSize < s.I.toNat + x.toNat + 1) ∨
    (∃ x, i = .ldVxMem x ∧ Config.memSize < s.I.toNat + x.toNat + 1) ∨
    (∃ x y n, i = .drw x y n ∧ Config.memSize < s.I.toNat + n.toNat)

/-- An instruction with a cause enters that fault, with its own word. -/
theorem exec_of_faultCause {s : State} {i : Instr} {k : FaultKind} (h : s.faultCause i k) :
    exec i s = .next (s.enterFault k (encode i)) := by
  cases k with
  | unknownOpcode => exact h.elim
  | stackOverflow =>
    obtain ⟨hfull, nnn, rfl⟩ := h
    exact exec_call_of_full nnn s hfull
  | memoryBoundsViolation =>
    obtain ⟨x, rfl, hlt⟩ | ⟨x, rfl, hlt⟩ | ⟨x, rfl, hlt⟩ | ⟨x, y, n, rfl, hlt⟩ := h
    · exact exec_ldBVx_of_lt x s hlt
    · exact exec_ldMemVx_of_lt x s hlt
    · exact exec_ldVxMem_of_lt x s hlt
    · rw [exec_drw, drwWith_of_lt _ x y n s hlt]

/-! ### The kinds of effect -/

/-- The conditional skips (R148). -/
def IsSkip (i : Instr) : Prop :=
  (∃ x kk, i = .seImm x kk) ∨ (∃ x kk, i = .sneImm x kk) ∨ (∃ x y, i = .seReg x y) ∨ (∃ x y, i = .sneReg x y) ∨
    (∃ x, i = .skp x) ∨ ∃ x, i = .sknp x

/-- What an instruction can make of a state: the one update it is, with the instructions whose effect has that form. The values that a parameter
of R11 selects are left free, so that the same holds of an execution under parameters. -/
inductive Effect (s : State) : Instr → State → Prop
  | nothing {i : Instr} (hi : i = .ret ∨ ∃ nnn, i = .sys nnn) : Effect s i s
  | jump {i : Instr} (a : Word) (ha : a.toNat ≤ 0x10FE) (hi : (∃ nnn, i = .jp nnn) ∨ ∃ nnn, i = .jpV0 nnn) : Effect s i (s.setPc a)
  | skip {i : Instr} (c : Bool) (hi : IsSkip i) : Effect s i (s.skipIf c)
  | push (nnn : Addr) (h : s.sp.val < 16) : Effect s (.call nnn)
      { s with stack := s.stack.set s.sp.val s.pc h, sp := ⟨s.sp.val + 1, Nat.succ_lt_succ h⟩, pc := zextAddr nnn }
  | pop (k : Nat) (hk : k < 16) : Effect s .ret { s with sp := ⟨k, Nat.lt_succ_of_lt hk⟩, pc := s.stack[k] }
  | register {i : Instr} (x : RegIdx) (b : Byte) (hi : destinations i = [x] ∧ writesFlag i = false) : Effect s i (s.setReg x b)
  | registerAndFlag {i : Instr} (x : RegIdx) (b : Byte) (c : Bool) (hi : destinations i = [x] ∧ writesFlag i = true) :
      Effect s i (s.setRegAndFlag x b c)
  | random (x : RegIdx) (kk b : Byte) : Effect s (.rnd x kk) ((s.setReg x b).countDraw)
  | index {i : Instr} (v : Word) (hi : (∃ nnn, i = .ldI nnn) ∨ (∃ x, i = .addIVx x) ∨ ∃ x, i = .ldFVx x) : Effect s i (s.setI v)
  | delay (x : RegIdx) (b : Byte) : Effect s (.ldDTVx x) (s.setDT b)
  | sound (x : RegIdx) (b : Byte) : Effect s (.ldSTVx x) (s.setST b)
  | store {i : Instr} (bs : List Byte) (hle : s.I.toNat + bs.length ≤ Config.memSize)
      (hi : (∃ x, i = .ldBVx x ∧ bs.length = 3) ∨ ∃ x, i = .ldMemVx x ∧ bs.length = x.toNat + 1) :
      Effect s i (s.setMem (Memory.writeBytes s.mem s.I.toNat bs))
  | load (x : RegIdx) (bs : List Byte) (hlen : bs.length = x.toNat + 1) : Effect s (.ldVxMem x) (s.loadRegs 0 bs)
  | clear : Effect s .cls (s.setDisp Display.blank)
  | draw (x y : RegIdx) (n : BitVec 4) (d : Display) (c : Bool) : Effect s (.drw x y n) ((s.setDisp d).setReg vF (flagByte c))
  | keyWait (x : RegIdx) : Effect s (.ldVxK x) (s.beginWait x)
  | fault {i : Instr} (k : FaultKind) (h : s.faultCause i k) : Effect s i (s.enterFault k (encode i))

/-! ### Every execution answers a next state, with an effect of those kinds -/

theorem Effect.of_ret (s : State) : ∃ t, exec .ret s = .next t ∧ Effect s .ret t := by
  rcases s.pop_cases with ⟨hempty, -⟩ | ⟨k, hk, hsp, -⟩
  · exact ⟨_, exec_ret_of_empty s hempty, .nothing (.inl rfl)⟩
  · exact ⟨_, exec_ret_of_succ s hk hsp, .pop k hk⟩

theorem Effect.of_call (nnn : Addr) (s : State) : ∃ t, exec (.call nnn) s = .next t ∧ Effect s (.call nnn) t := by
  rcases s.push_cases s.pc with ⟨hlt, -⟩ | ⟨hfull, -⟩
  · exact ⟨_, exec_call_of_lt nnn s hlt, .push nnn hlt⟩
  · exact ⟨_, exec_call_of_full nnn s hfull, .fault .stackOverflow ⟨hfull, nnn, rfl⟩⟩

theorem Effect.of_ldBVx (x : RegIdx) (s : State) : ∃ t, exec (.ldBVx x) s = .next t ∧ Effect s (.ldBVx x) t := by
  rcases Nat.lt_or_ge Config.memSize (s.I.toNat + 3) with hlt | hle
  · exact ⟨_, exec_ldBVx_of_lt x s hlt, .fault .memoryBoundsViolation (.inl ⟨x, rfl, hlt⟩)⟩
  · exact ⟨_, exec_ldBVx_of_le x s hle, .store _ (by rwa [decimalDigits_length]) (.inl ⟨x, rfl, decimalDigits_length _⟩)⟩

theorem Effect.of_ldMemVx (x : RegIdx) (s : State) : ∃ t, exec (.ldMemVx x) s = .next t ∧ Effect s (.ldMemVx x) t := by
  rcases Nat.lt_or_ge Config.memSize (s.I.toNat + x.toNat + 1) with hlt | hle
  · exact ⟨_, exec_ldMemVx_of_lt x s hlt, .fault .memoryBoundsViolation (.inr (.inl ⟨x, rfl, hlt⟩))⟩
  · exact ⟨_, exec_ldMemVx_of_le x s hle, .store _ (by rwa [State.regsTo_length]) (.inr ⟨x, rfl, s.regsTo_length x⟩)⟩

theorem Effect.of_ldVxMem (x : RegIdx) (s : State) : ∃ t, exec (.ldVxMem x) s = .next t ∧ Effect s (.ldVxMem x) t := by
  rcases Nat.lt_or_ge Config.memSize (s.I.toNat + x.toNat + 1) with hlt | hle
  · exact ⟨_, exec_ldVxMem_of_lt x s hlt, .fault .memoryBoundsViolation (.inr (.inr (.inl ⟨x, rfl, hlt⟩)))⟩
  · exact ⟨_, exec_ldVxMem_of_le x s hle, .load x _ (by simp)⟩

/-- Under either edge policy. -/
theorem Effect.of_drwWith (edge : SpriteEdge) (x y : RegIdx) (n : BitVec 4) (s : State) :
    Effect s (.drw x y n) (drwWith edge x y n s) := by
  rcases Nat.lt_or_ge Config.memSize (s.I.toNat + n.toNat) with hlt | hle
  · rw [drwWith_of_lt edge x y n s hlt]
    exact .fault .memoryBoundsViolation (.inr (.inr (.inr ⟨x, y, n, rfl, hlt⟩)))
  · obtain ⟨drawn, -, hdrw⟩ := drwWith_of_le edge x y n s hle
    rw [hdrw]
    exact .draw x y n drawn.1 drawn.2

theorem zextAddr_add_zextByte_toNat (nnn : Addr) (b : Byte) : (zextAddr nnn + zextByte b).toNat = nnn.toNat + b.toNat := by
  have := nnn.isLt
  have := b.isLt
  rw [BitVec.toNat_add, zextAddr_toNat, zextByte_toNat]
  omega

/-! The two jumps stay inside the range of R27. -/

theorem zextAddr_le (nnn : Addr) : (zextAddr nnn).toNat ≤ 0x10FE := by
  have := nnn.isLt
  rw [zextAddr_toNat]
  omega

theorem zextAddr_add_zextByte_le (nnn : Addr) (b : Byte) : (zextAddr nnn + zextByte b).toNat ≤ 0x10FE := by
  have := nnn.isLt
  have := b.isLt
  rw [zextAddr_add_zextByte_toNat]
  omega

theorem exec_effect : ∀ (i : Instr) (s : State), ∃ t, exec i s = .next t ∧ Effect s i t
  | .cls, _ => ⟨_, rfl, .clear⟩
  | .ret, s => Effect.of_ret s
  | .sys nnn, _ => ⟨_, rfl, .nothing (.inr ⟨nnn, rfl⟩)⟩
  | .jp nnn, _ => ⟨_, rfl, .jump _ (zextAddr_le nnn) (.inl ⟨nnn, rfl⟩)⟩
  | .call nnn, s => Effect.of_call nnn s
  | .seImm x kk, _ => ⟨_, rfl, .skip _ (.inl ⟨x, kk, rfl⟩)⟩
  | .sneImm x kk, _ => ⟨_, rfl, .skip _ (.inr (.inl ⟨x, kk, rfl⟩))⟩
  | .seReg x y, _ => ⟨_, rfl, .skip _ (.inr (.inr (.inl ⟨x, y, rfl⟩)))⟩
  | .ldImm x _, _ => ⟨_, rfl, .register x _ ⟨rfl, rfl⟩⟩
  | .addImm x _, _ => ⟨_, rfl, .register x _ ⟨rfl, rfl⟩⟩
  | .ldReg x _, _ => ⟨_, rfl, .register x _ ⟨rfl, rfl⟩⟩
  | .orReg x _, _ => ⟨_, rfl, .register x _ ⟨rfl, rfl⟩⟩
  | .andReg x _, _ => ⟨_, rfl, .register x _ ⟨rfl, rfl⟩⟩
  | .xorReg x _, _ => ⟨_, rfl, .register x _ ⟨rfl, rfl⟩⟩
  | .addReg x _, _ => ⟨_, rfl, .registerAndFlag x _ _ ⟨rfl, rfl⟩⟩
  | .subReg x _, _ => ⟨_, rfl, .registerAndFlag x _ _ ⟨rfl, rfl⟩⟩
  | .shr x _, _ => ⟨_, rfl, .registerAndFlag x _ _ ⟨rfl, rfl⟩⟩
  | .subnReg x _, _ => ⟨_, rfl, .registerAndFlag x _ _ ⟨rfl, rfl⟩⟩
  | .shl x _, _ => ⟨_, rfl, .registerAndFlag x _ _ ⟨rfl, rfl⟩⟩
  | .sneReg x y, _ => ⟨_, rfl, .skip _ (.inr (.inr (.inr (.inl ⟨x, y, rfl⟩))))⟩
  | .ldI nnn, _ => ⟨_, rfl, .index _ (.inl ⟨nnn, rfl⟩)⟩
  | .jpV0 nnn, _ => ⟨_, rfl, .jump _ (zextAddr_add_zextByte_le nnn _) (.inr ⟨nnn, rfl⟩)⟩
  | .rnd x kk, _ => ⟨_, rfl, .random x kk _⟩
  | .drw x y n, s => ⟨_, exec_drw x y n s, Effect.of_drwWith _ x y n s⟩
  | .skp x, _ => ⟨_, rfl, .skip _ (.inr (.inr (.inr (.inr (.inl ⟨x, rfl⟩)))))⟩
  | .sknp x, _ => ⟨_, rfl, .skip _ (.inr (.inr (.inr (.inr (.inr ⟨x, rfl⟩)))))⟩
  | .ldVxDT x, _ => ⟨_, rfl, .register x _ ⟨rfl, rfl⟩⟩
  | .ldVxK x, _ => ⟨_, rfl, .keyWait x⟩
  | .ldDTVx x, _ => ⟨_, rfl, .delay x _⟩
  | .ldSTVx x, _ => ⟨_, rfl, .sound x _⟩
  | .addIVx x, _ => ⟨_, rfl, .index _ (.inr (.inl ⟨x, rfl⟩))⟩
  | .ldFVx x, _ => ⟨_, rfl, .index _ (.inr (.inr ⟨x, rfl⟩))⟩
  | .ldBVx x, s => Effect.of_ldBVx x s
  | .ldMemVx x, s => Effect.of_ldMemVx x s
  | .ldVxMem x, s => Effect.of_ldVxMem x s

/-- The same of an execution under parameters: LD F and DRW, which read one, have their effect under every value of it. -/
theorem execWith_effect (p : Params) (i : Instr) (s : State) : ∃ t, execWith p i s = .next t ∧ Effect s i t := by
  rcases execWith_cases p i s with ⟨x, rfl, h⟩ | ⟨x, y, n, rfl, h⟩ | h
  · exact ⟨_, h, .index _ (.inr (.inr ⟨x, rfl⟩))⟩
  · exact ⟨_, h, Effect.of_drwWith p.spriteEdge x y n s⟩
  · rw [h]
    exact exec_effect i s

theorem effect_of_execWith {p : Params} {i : Instr} {s t : State} (h : execWith p i s = .next t) : Effect s i t := by
  obtain ⟨t', h', he⟩ := execWith_effect p i s
  cases h.symm.trans h'
  exact he

theorem effect_of_exec {i : Instr} {s t : State} (h : exec i s = .next t) : Effect s i t := by
  obtain ⟨t', h', he⟩ := exec_effect i s
  cases h.symm.trans h'
  exact he

end Sys2Proof.Machine

/-! # Proofs: the frames of the instructions, from the kinds of effect (10_state.md R21-R36, 20_memory.md R51, 44_display.md R216) -/

namespace Sys2Proof.Machine

/-! ### Faulting forms (R251, R254) -/

/-- A cause for a fault gives the post-state of R254, from the state after the advance. -/
theorem exec_faultedFrom {s : State} {i : Instr} {k : FaultKind} (h : s.faultCause i k) :
    ∃ t, exec i s = .next t ∧ s.faultedFrom t k (encode i) :=
  ⟨_, exec_of_faultCause h, s.enterFault_eq k (encode i)⟩

/-- Settles O16: each of the forms has, where its condition holds, a cause for its fault. -/
theorem faultingFormsEnterFault : Obligations.FaultingFormsEnterFault := by
  intro s
  refine ⟨fun nnn hfull => ?call, fun x hlt => ?bcd, fun x hlt => ⟨?store, ?load⟩, fun x y n hlt => ?draw⟩
  case call => exact exec_faultedFrom (k := .stackOverflow) (i := .call nnn) ⟨hfull, nnn, rfl⟩
  case bcd => exact exec_faultedFrom (k := .memoryBoundsViolation) (i := .ldBVx x) (.inl ⟨x, rfl, hlt⟩)
  case store =>
    exact exec_faultedFrom (k := .memoryBoundsViolation) (i := .ldMemVx x) (.inr (.inl ⟨x, rfl, Nat.succ_lt_succ hlt⟩))
  case load =>
    exact exec_faultedFrom (k := .memoryBoundsViolation) (i := .ldVxMem x) (.inr (.inr (.inl ⟨x, rfl, Nat.succ_lt_succ hlt⟩)))
  case draw =>
    exact exec_faultedFrom (k := .memoryBoundsViolation) (i := .drw x y n) (.inr (.inr (.inr ⟨x, y, n, rfl, hlt⟩)))

/-! ### General registers (R21, R22) -/

section
variable {i : Instr} {s t : State}

/-- The registers a load of V0 to Vx names are those up to x (R198). -/
theorem mem_destinations_ldVxMem {x j : RegIdx} (h : j.toNat ≤ x.toNat) : j ∈ destinations (.ldVxMem x) :=
  List.mem_map.mpr ⟨j.toNat, List.mem_range.mpr (by omega), ofNat_toNat_regIdx j⟩

theorem State.eq_of_reg_setReg_ne {x j : RegIdx} {b : Byte} (h : (s.setReg x b).reg j ≠ s.reg j) : j = x :=
  Decidable.by_contra fun hne => h (s.reg_setReg_of_ne x b hne)

theorem State.eq_of_reg_setRegAndFlag_ne {x j : RegIdx} {b : Byte} {c : Bool} (h : (s.setRegAndFlag x b c).reg j ≠ s.reg j) :
    j = x ∨ j = vF := by
  by_contra hne
  obtain ⟨hx, hF⟩ := not_or.mp hne
  exact h ((State.reg_setReg_of_ne _ vF _ hF).trans (s.reg_setReg_of_ne x b hx))

theorem Effect.reg_ne (he : Effect s i t) {j : RegIdx} (hj : t.reg j ≠ s.reg j) :
    j ∈ destinations i ∨ (j = vF ∧ writesFlag i = true) := by
  cases he
  case register x b hi => exact .inl (by simp [hi.1, State.eq_of_reg_setReg_ne hj])
  case registerAndFlag x b c hi =>
    obtain ⟨hx, hflag⟩ := hi
    rcases State.eq_of_reg_setRegAndFlag_ne hj with rfl | rfl
    · exact .inl (by simp [hx])
    · exact .inr ⟨rfl, hflag⟩
  case random x kk b => exact .inl (by simp [destinations, State.eq_of_reg_setReg_ne (s := s) hj])
  case load x bs hlen =>
    rw [s.reg_loadRegs 0 bs (by have := x.isLt; omega)] at hj
    split at hj
    next h => exact .inl (mem_destinations_ldVxMem (by omega))
    next => exact absurd rfl hj
  case draw x y n d c => exact .inr ⟨State.eq_of_reg_setReg_ne (s := s.setDisp d) hj, rfl⟩
  case nothing => exact absurd rfl hj
  case push => exact absurd rfl hj
  case pop => exact absurd rfl hj
  all_goals exact absurd (by simp) hj

theorem IsSkip.writesFlag_eq_false (hi : IsSkip i) : writesFlag i = false := by
  obtain ⟨_, _, rfl⟩ | ⟨_, _, rfl⟩ | ⟨_, _, rfl⟩ | ⟨_, _, rfl⟩ | ⟨_, rfl⟩ | ⟨_, rfl⟩ := hi <;> rfl

theorem flagByte_eq_zero_or_one (c : Bool) : flagByte c = 0x00#8 ∨ flagByte c = 0x01#8 := by
  cases c
  · exact .inl rfl
  · exact .inr rfl

/-- A flag writer that does not fault leaves a flag in VF (R23). -/
theorem Effect.flag_of_running (he : Effect s i t) (hi : writesFlag i = true) (ht : t.status = .running) :
    t.reg vF = 0x00#8 ∨ t.reg vF = 0x01#8 := by
  have hother (hf : writesFlag i = false) : t.reg vF = 0x00#8 ∨ t.reg vF = 0x01#8 := by
    rw [hf] at hi
    cases hi
  cases he
  case registerAndFlag x b c _ => simpa using flagByte_eq_zero_or_one c
  case draw x y n d c => simpa using flagByte_eq_zero_or_one c
  case fault k _ => cases ht
  case register x b hreg => exact hother hreg.2
  case nothing hform => rcases hform with rfl | ⟨_, rfl⟩ <;> exact hother rfl
  case jump a ha hform => rcases hform with ⟨_, rfl⟩ | ⟨_, rfl⟩ <;> exact hother rfl
  case skip c hform => exact hother hform.writesFlag_eq_false
  case index v hform => rcases hform with ⟨_, rfl⟩ | ⟨_, rfl⟩ | ⟨_, rfl⟩ <;> exact hother rfl
  case store bs hle hform => rcases hform with ⟨_, rfl, _⟩ | ⟨_, rfl, _⟩ <;> exact hother rfl
  all_goals exact hother rfl

/-! ### Memory (R51) -/

theorem Effect.byteAt_ne (he : Effect s i t) {a : Nat} (h : Memory.byteAt t.mem a ≠ Memory.byteAt s.mem a) :
    (∃ x, i = .ldBVx x ∧ s.I.toNat ≤ a ∧ a < s.I.toNat + 3) ∨
    ∃ x, i = .ldMemVx x ∧ s.I.toNat ≤ a ∧ a ≤ s.I.toNat + x.toNat := by
  cases he
  case store bs hle hi =>
    have hin : s.I.toNat ≤ a ∧ a < s.I.toNat + bs.length := by
      by_contra hout
      exact h (Memory.byteAt_writeBytes_of_outside s.mem _ bs (by omega))
    rcases hi with ⟨x, rfl, hlen⟩ | ⟨x, rfl, hlen⟩
    · exact .inl ⟨x, rfl, hin.1, by omega⟩
    · exact .inr ⟨x, rfl, hin.1, by omega⟩
  all_goals exact absurd (by simp) h

/-! ### The display (R216) -/

theorem Effect.disp_ne (he : Effect s i t) (h : t.disp ≠ s.disp) : i = .cls ∨ ∃ x y n, i = .drw x y n := by
  cases he
  case clear => exact .inl rfl
  case draw x y n d c => exact .inr ⟨x, y, n, rfl⟩
  all_goals exact absurd (by simp) h

/-! ### The other fields (R24, R28-R36, R103) -/

theorem Effect.I_ne (he : Effect s i t) (h : t.I ≠ s.I) :
    t.I.toNat ≤ 0x0FFF ∧ ((∃ n, i = .ldI n) ∨ (∃ x, i = .addIVx x) ∨ ∃ x, i = .ldFVx x) := by
  cases he
  case index v hi => exact ⟨s.setI_le v, hi⟩
  all_goals exact absurd (by simp) h

theorem Effect.stack_ne (he : Effect s i t) (h : t.stack ≠ s.stack) : ∃ n, i = .call n := by
  cases he
  case push nnn _ => exact ⟨nnn, rfl⟩
  all_goals exact absurd (by simp) h

theorem Effect.sp_ne (he : Effect s i t) (h : t.sp ≠ s.sp) : i = .ret ∨ ∃ n, i = .call n := by
  cases he
  case push nnn _ => exact .inr ⟨nnn, rfl⟩
  case pop => exact .inl rfl
  all_goals exact absurd (by simp) h

theorem Effect.DT_ne (he : Effect s i t) (h : t.DT ≠ s.DT) : ∃ x, i = .ldDTVx x := by
  cases he
  case delay x b => exact ⟨x, rfl⟩
  all_goals exact absurd (by simp) h

theorem Effect.ST_ne (he : Effect s i t) (h : t.ST ≠ s.ST) : ∃ x, i = .ldSTVx x := by
  cases he
  case sound x b => exact ⟨x, rfl⟩
  all_goals exact absurd (by simp) h

theorem Effect.key_eq (he : Effect s i t) : t.key = s.key := by
  cases he
  all_goals simp

theorem Effect.wait_ne (he : Effect s i t) (h : t.wait ≠ s.wait ∨ t.kev ≠ s.kev) : ∃ x, i = .ldVxK x := by
  cases he
  case keyWait x => exact ⟨x, rfl⟩
  all_goals exact absurd h (by simp)

theorem Effect.draws_eq (he : Effect s i t) (hi : ∀ x kk, i ≠ .rnd x kk) : t.draws = s.draws := by
  cases he
  case random x kk b => exact absurd rfl (hi x kk)
  all_goals simp

/-- The forms that can fault (R251). -/
theorem State.form_of_faultCause {k : FaultKind} (h : s.faultCause i k) :
    (∃ n, i = .call n) ∨ (∃ x, i = .ldBVx x) ∨ (∃ x, i = .ldMemVx x) ∨ (∃ x, i = .ldVxMem x) ∨ ∃ x y n, i = .drw x y n := by
  cases k with
  | unknownOpcode => exact h.elim
  | stackOverflow => exact .inl h.2
  | memoryBoundsViolation =>
    obtain ⟨x, hx, -⟩ | ⟨x, hx, -⟩ | ⟨x, hx, -⟩ | ⟨x, y, n, hx, -⟩ := h
    · exact .inr (.inl ⟨x, hx⟩)
    · exact .inr (.inr (.inl ⟨x, hx⟩))
    · exact .inr (.inr (.inr (.inl ⟨x, hx⟩)))
    · exact .inr (.inr (.inr (.inr ⟨x, y, n, hx⟩)))

/-- Only a fault changes the status (R36). -/
theorem Effect.status_ne (he : Effect s i t) (h : t.status ≠ s.status) :
    ∃ k, s.faultCause i k ∧ t = s.enterFault k (encode i) := by
  cases he
  case fault k hk => exact ⟨k, hk, rfl⟩
  all_goals exact absurd (by simp) h

/-- A write of pc is the return to the instruction by a fault, or a control transfer, or a skip (R103, R254). -/
theorem Effect.pc_ne (he : Effect s i t) (h : t.pc ≠ s.pc) :
    (t.pc = s.pc - 2#16 ∧ ∃ k w, t.status = .faulted k (s.pc - 2#16) w) ∨
    i = .ret ∨ (∃ n, i = .jp n) ∨ (∃ n, i = .call n) ∨ (∃ n, i = .jpV0 n) ∨ IsSkip i := by
  cases he
  case fault k _ => exact .inl ⟨rfl, k, _, rfl⟩
  case pop => exact .inr (.inl rfl)
  case jump a ha hi =>
    rcases hi with hi | hi
    · exact .inr (.inr (.inl hi))
    · exact .inr (.inr (.inr (.inr (.inl hi))))
  case push nnn _ => exact .inr (.inr (.inr (.inl ⟨nnn, rfl⟩)))
  case skip c hi => exact .inr (.inr (.inr (.inr (.inr hi))))
  all_goals exact absurd (by simp) h

end

/-! ### The random draw (R114) -/

theorem State.skipIf_withDraws (s : State) (c : Bool) (n : Nat) :
    ({ s with draws := n } : State).skipIf c = { s.skipIf c with draws := n } := by
  cases c <;> rfl

theorem State.loadRegs_withDraws (s : State) (k : Nat) (bs : List Byte) (n : Nat) :
    ({ s with draws := n } : State).loadRegs k bs = { s.loadRegs k bs with draws := n } := by
  induction bs generalizing s k with
  | nil => rfl
  | cons b bs ih => exact ih (s.setReg (BitVec.ofNat 4 k) b) (k + 1)

theorem drwWith_withDraws (edge : SpriteEdge) (x y : RegIdx) (m : BitVec 4) (s : State) (n : Nat) :
    drwWith edge x y m { s with draws := n } = { drwWith edge x y m s with draws := n } := by
  have hread : ({ s with draws := n } : State).readAtI m.toNat = s.readAtI m.toNat := rfl
  unfold drwWith
  rw [hread]
  cases s.readAtI m.toNat <;> rfl

/-- With another draw next, every instruction but RND answers the same state with that draw next. -/
theorem exec_withDraws {i : Instr} {s t : State} (n : Nat) (hi : ∀ x kk, i ≠ .rnd x kk) (h : exec i s = .next t) :
    exec i { s with draws := n } = .next { t with draws := n } := by
  cases i
  case rnd x kk => exact absurd rfl (hi x kk)
  case ret =>
    rcases s.pop_cases with ⟨hempty, -⟩ | ⟨k, hk, hsp, -⟩
    · cases h.symm.trans (exec_ret_of_empty s hempty)
      exact exec_ret_of_empty _ hempty
    · cases h.symm.trans (exec_ret_of_succ s hk hsp)
      exact exec_ret_of_succ _ hk hsp
  case call nnn =>
    rcases s.push_cases s.pc with ⟨hlt, -⟩ | ⟨hfull, -⟩
    · cases h.symm.trans (exec_call_of_lt nnn s hlt)
      exact exec_call_of_lt nnn { s with draws := n } hlt
    · cases h.symm.trans (exec_call_of_full nnn s hfull)
      exact exec_call_of_full nnn _ hfull
  case ldBVx x =>
    rcases Nat.lt_or_ge Config.memSize (s.I.toNat + 3) with hlt | hle
    · cases h.symm.trans (exec_ldBVx_of_lt x s hlt)
      exact exec_ldBVx_of_lt x _ hlt
    · cases h.symm.trans (exec_ldBVx_of_le x s hle)
      exact exec_ldBVx_of_le x _ hle
  case ldMemVx x =>
    rcases Nat.lt_or_ge Config.memSize (s.I.toNat + x.toNat + 1) with hlt | hle
    · cases h.symm.trans (exec_ldMemVx_of_lt x s hlt)
      exact exec_ldMemVx_of_lt x _ hlt
    · cases h.symm.trans (exec_ldMemVx_of_le x s hle)
      exact exec_ldMemVx_of_le x _ hle
  case ldVxMem x =>
    rcases Nat.lt_or_ge Config.memSize (s.I.toNat + x.toNat + 1) with hlt | hle
    · cases h.symm.trans (exec_ldVxMem_of_lt x s hlt)
      exact exec_ldVxMem_of_lt x _ hlt
    · cases h.symm.trans (exec_ldVxMem_of_le x s hle)
      exact (exec_ldVxMem_of_le x { s with draws := n } hle).trans (congrArg _ (s.loadRegs_withDraws 0 _ n))
  case drw x y m =>
    cases h
    exact congrArg _ (drwWith_withDraws _ x y m s n)
  case seImm | sneImm | seReg | sneReg | skp | sknp =>
    cases h
    exact congrArg _ (s.skipIf_withDraws _ n)
  all_goals cases h; rfl

/-! ### The obligations -/

/-- Settles O34: no other instruction has the draws in its effect. -/
theorem onlyRndReadsTheDraw : Obligations.OnlyRndReadsTheDraw :=
  fun _ _ _ n hi h => ⟨exec_withDraws n hi h, (effect_of_exec h).draws_eq hi⟩

/-- Settles O35: of the effects that write a register, each writes one that the instruction names, or the flag last. -/
theorem registersChangeOnlyAsNamed : Obligations.RegistersChangeOnlyAsNamed := by
  intro i s t h
  have he := effect_of_exec h
  exact ⟨fun j hj => he.reg_ne hj, fun hi _ ht => he.flag_of_running hi ht⟩

/-- Settles O42: one effect writes memory, that of the two stores, and it writes its range alone. -/
theorem memoryWrittenOnlyByStores : Obligations.MemoryWrittenOnlyByStores :=
  fun _ _ _ _ h hne => (effect_of_exec h).byteAt_ne hne

/-- Settles O54: a field that differs picks out the effects that write it. -/
theorem fieldsChangeOnlyByTheirWriters : Obligations.FieldsChangeOnlyByTheirWriters := by
  intro i s t h
  have he := effect_of_exec h
  refine ⟨he.I_ne, he.stack_ne, he.sp_ne, he.DT_ne, he.ST_ne, he.key_eq, he.wait_ne, fun hne => ?status, he.pc_ne⟩
  case status =>
    obtain ⟨k, hk, -⟩ := he.status_ne hne
    exact State.form_of_faultCause hk

end Sys2Proof.Machine

/-! # Proofs: the step (40_engine.md R101-R110, 60_exceptions.md R251-R255) -/

namespace Sys2Proof.Machine

/-! ### Every step answers a next state -/

/-- The one way out of a step that is not a next state would be an instruction's. -/
theorem stepBy_next {run : Instr → State → Host.Outcome State Fault Refusal} {policy : UnknownOpcodePolicy}
    (hrun : ∀ i s, ∃ t, run i s = .next t) (s : State) : ∃ t, stepBy run policy s = .next t := by
  by_cases hs : s.status = .running
  swap
  · exact ⟨s, stepBy_of_finished run policy s hs⟩
  cases hw : s.wait with
  | some x => exact ⟨_, stepBy_of_wait run policy s x hs hw⟩
  | none =>
    cases hf : s.fetchWord with
    | none => exact ⟨_, stepBy_of_past_end run policy s hs hw hf⟩
    | some w =>
      cases hd : decodeWord w with
      | error e => exact ⟨_, stepBy_of_unknown run policy s hs hw hf hd⟩
      | ok i =>
        obtain ⟨t, ht⟩ := hrun i s.advance
        exact ⟨t, (stepBy_of_instr run policy s hs hw hf hd).trans ht⟩

theorem exec_next (i : Instr) (s : State) : ∃ t, exec i s = .next t := by
  obtain ⟨t, ht, -⟩ := exec_effect i s
  exact ⟨t, ht⟩

/-- Settles O9: every instruction has an effect, and every other way through a step is a next state. -/
theorem everyStepAnswersNext : Obligations.EveryStepAnswersNext :=
  ⟨stepBy_next exec_next, exec_next⟩

/-! ### The kinds of step -/

/-- Settles O8: the word fetched is the join of the two bytes. -/
theorem stepRunsDecodedInstruction : Obligations.StepRunsDecodedInstruction :=
  fun s _ hs hw hpc hd => step_of_instr s hs hw (s.fetchWord_of_le hpc) hd

/-- Settles O10: status is looked at first. -/
theorem finishedEngineStays : Obligations.FinishedEngineStays :=
  step_of_finished

/-- Settles O11: nothing can be fetched there. -/
theorem stepPastEndHalts : Obligations.StepPastEndHalts :=
  fun s hs hw hpc => step_of_past_end s hs hw (s.fetchWord_of_lt hpc)

theorem State.keyWaitStep_of_none {s : State} (x : RegIdx) (h : s.kev = none) : s.keyWaitStep x = s := by
  simp [State.keyWaitStep, h]

theorem State.keyWaitStep_of_some {s : State} (x : RegIdx) {k : KeyIdx} (h : s.kev = some k) :
    s.keyWaitStep x = (s.setReg x (keyByte k)).endWait := by
  simp [State.keyWaitStep, h]

/-- The step of a key wait does not depend on what it would run. -/
theorem stepBy_keyWait (run : Instr → State → Host.Outcome State Fault Refusal) (policy : UnknownOpcodePolicy)
    {s : State} {x : RegIdx} (hs : s.status = .running) (hw : s.wait = some x) :
    (s.kev = none → stepBy run policy s = .next s) ∧
    ∀ k, s.kev = some k → ∃ t, stepBy run policy s = .next t ∧ (t.reg x).toNat = k.toNat ∧ (∀ j, j ≠ x → t.reg j = s.reg j) ∧
      t = { s with V := t.V, wait := none, kev := none } := by
  have hstep := stepBy_of_wait run policy s x hs hw
  refine ⟨fun hk => ?idle, fun k hk => ?ends⟩
  case idle => rw [hstep, State.keyWaitStep_of_none x hk]
  case ends =>
    rw [State.keyWaitStep_of_some x hk] at hstep
    refine ⟨_, hstep, ?_, fun j hj => s.reg_setReg_of_ne x _ hj, rfl⟩
    rw [State.endWait_reg, State.reg_setReg_self, keyByte_toNat]

/-- Settles O12: the key wait is looked at before the fetch. -/
theorem keyWaitStepFetchesNothing : Obligations.KeyWaitStepFetchesNothing :=
  fun _ _ hs hw => stepBy_keyWait exec Param.unknownOpcodePolicy hs hw

/-- The fault of an unrecognised word undoes the advance (R107, R254). -/
theorem State.advance_unknownOpcode_fatal (s : State) (w : Word) :
    s.advance.unknownOpcode .fatal w = { s with status := .faulted .unknownOpcode s.pc w } :=
  s.advance_enterFault .unknownOpcode w

/-- Settles O13: the advance is undone by the fault and kept by the skip. -/
theorem unknownOpcodeFollowsPolicy : Obligations.UnknownOpcodeFollowsPolicy := by
  intro s w hs hw hf hd
  have hpolicy : ∀ policy, s.advance.unknownOpcode policy w = match policy with
      | .fatal => { s with status := .faulted .unknownOpcode s.pc w }
      | .skip => { s with pc := s.pc + 2#16 } := by
    intro policy
    cases policy with
    | fatal => exact s.advance_unknownOpcode_fatal w
    | skip => rfl
  refine ⟨hpolicy, fun p => ?_, ?_⟩
  · exact (stepBy_of_unknown _ _ s hs hw hf hd).trans (congrArg _ (hpolicy p.unknownOpcodePolicy))
  · exact (step_of_unknown s hs hw hf hd).trans (congrArg _ (hpolicy Param.unknownOpcodePolicy))

/-! ### Faults: their causes and their post-state (R251, R254) -/

section
variable {s t : State} {i : Instr} {k : FaultKind} {a w : Word}

/-- What a record says of a recognised word is that its instruction had a cause; the advance of pc plays no part in it. -/
theorem State.faultRecorded_iff_faultCause (hf : s.fetchWord = some w) (hd : decodeWord w = .ok i) :
    s.faultRecorded k s.pc w ↔ s.advance.faultCause i k := by
  cases k <;> simp [State.faultRecorded, State.faultCause, hf, hd]

theorem State.faultRecorded_unknownOpcode (hf : s.fetchWord = some w) (hd : decodeWord w = .error (.unknownOpcode w)) :
    s.faultRecorded .unknownOpcode s.pc w :=
  ⟨rfl, hf, hd⟩

/-- An execution that leaves the engine faulted had a cause, and is the fault entry of R254. -/
theorem Effect.eq_of_faulted (he : Effect s.advance i t) (hs : s.status = .running) (hf : s.fetchWord = some w)
    (hd : decodeWord w = .ok i) (ht : t.status ≠ .running) :
    ∃ k, s.faultRecorded k s.pc w ∧ t = { s with status := .faulted k s.pc w } := by
  obtain ⟨k, hk, rfl⟩ := he.status_ne (by simpa [hs] using ht)
  refine ⟨k, (State.faultRecorded_iff_faultCause hf hd).mpr hk, ?_⟩
  rw [(encode_of_decodeWord hd).1, s.advance_enterFault]

theorem eq_of_step_faulted (hs : s.status = .running) (h : step s = .next t) (ht : t.status = .faulted k a w) :
    s.faultRecorded k a w ∧ t = { s with status := .faulted k a w } := by
  obtain ⟨hne, -⟩ | ⟨x, -, -, rfl⟩ | ⟨-, -, -, rfl⟩ | ⟨v, i, -, -, hf, hd, hrun⟩ | ⟨v, -, -, hf, hd, rfl⟩ := step_cases h
  · exact absurd hs hne
  · simp [hs] at ht
  · simp at ht
  · obtain ⟨k', hrec, rfl⟩ := (effect_of_exec hrun).eq_of_faulted hs hf hd (by simp [ht])
    cases ht
    exact ⟨hrec, rfl⟩
  · have hpost := s.advance_unknownOpcode_fatal v
    rw [Param.unknownOpcodePolicy, hpost] at ht ⊢
    cases ht
    exact ⟨State.faultRecorded_unknownOpcode hf hd, rfl⟩

/-- Under the policy fatal. -/
theorem step_of_faultRecorded (hs : s.status = .running) (hw : s.wait = none) (h : s.faultRecorded k a w) :
    step s = .next { s with status := .faulted k a w } := by
  obtain ⟨rfl, hf, hcause⟩ := h
  cases hd : decodeWord w with
  | error e =>
    cases k with
    | unknownOpcode => exact (step_of_unknown s hs hw hf hd).trans (congrArg _ (s.advance_unknownOpcode_fatal w))
    | stackOverflow => simp [hd] at hcause
    | memoryBoundsViolation => simp [hd] at hcause
  | ok i =>
    have hk : s.advance.faultCause i k := (State.faultRecorded_iff_faultCause hf hd).mp ⟨rfl, hf, hcause⟩
    rw [step_of_instr s hs hw hf hd, exec_of_faultCause hk, (encode_of_decodeWord hd).1, s.advance_enterFault]

end

/-- Settles O14: the fault entry undoes the advance, and nothing was written before it. -/
theorem faultEntryIsPrecise : Obligations.FaultEntryIsPrecise := by
  intro s t k a w hs h ht
  obtain ⟨⟨hpc, hf, -⟩, hpost⟩ := eq_of_step_faulted hs h ht
  exact ⟨hpc.symm, hf, hpost⟩

/-- Settles O15: a step that faults had the cause it records, and a cause makes the step that records it. -/
theorem faultCausesAreExact : Obligations.FaultCausesAreExact := by
  intro s t k a w hs hw h
  refine ⟨fun ht => (eq_of_step_faulted hs h ht).1, fun hrec => ?_⟩
  cases h.symm.trans (step_of_faultRecorded hs hw hrec)
  rfl

end Sys2Proof.Machine

/-! # Proofs: the invariant (10_state.md R24, R27, R34-R36; 60_exceptions.md R254) -/

namespace Sys2Proof.Machine

/-! ### The part of the invariant that an instruction can break -/

/-- The ranges of memory, I, pc and the return stack (R24, R27, R50). -/
structure State.Ranges (s : State) : Prop where
  mem_wf : Memory.wf s.mem
  index_le : s.I.toNat ≤ 0x0FFF
  pc_le : s.pc.toNat ≤ 0x10FE
  stack_le : ∀ a ∈ s.stack.toList, a.toNat ≤ 0x1000

section
variable {s t : State} {i : Instr}

theorem State.Inv.ranges (h : s.Inv) : s.Ranges :=
  ⟨h.mem_wf, h.index_le, h.pc_le, h.stack_le⟩

/-- While the engine runs, the ranges and the latch are all there is to the invariant. -/
theorem State.Ranges.inv_of_running (h : s.Ranges) (hs : s.status = .running) (hk : s.kev.isSome → s.wait.isSome) : s.Inv where
  mem_wf := h.mem_wf
  index_le := h.index_le
  pc_le := h.pc_le
  stack_le := h.stack_le
  kev_waits := hk
  wait_runs := fun _ => hs
  halted_pc := fun hh => absurd (hs.symm.trans hh) (by simp)
  fault_record := fun _ _ _ hh => absurd (hs.symm.trans hh) (by simp)

/-- No key is latched without a wait. -/
theorem State.Inv.kev_eq_none (h : s.Inv) (hw : s.wait = none) : s.kev = none := by
  simpa [hw] using h.kev_waits

/-- A true record is what the invariant asks of a faulted engine. -/
theorem State.Inv.faulted {k : FaultKind} {a w : Word} (h : s.Inv) (hw : s.wait = none) (hr : s.faultRecorded k a w) :
    State.Inv { s with status := .faulted k a w } where
  mem_wf := h.mem_wf
  index_le := h.index_le
  pc_le := h.pc_le
  stack_le := h.stack_le
  kev_waits := h.kev_waits
  wait_runs := by simp [hw]
  halted_pc := fun hh => Status.noConfusion hh
  fault_record := by
    intro k' a' w' hh
    cases hh
    exact hr

theorem State.Inv.halt (h : s.Inv) (hw : s.wait = none) (hpc : 0x0FFE < s.pc.toNat) : s.halt.Inv where
  mem_wf := h.mem_wf
  index_le := h.index_le
  pc_le := h.pc_le
  stack_le := h.stack_le
  kev_waits := h.kev_waits
  wait_runs := by simp [hw]
  halted_pc := fun _ => hpc
  fault_record := fun _ _ _ hh => Status.noConfusion hh

/-! ### The execution of an instruction -/

theorem Effect.kev_eq_none (he : Effect s i t) (h : s.kev = none) : t.kev = none := by
  cases he
  all_goals simp [h]

/-! The ranges after each update of a state that writes a field they speak of. -/

theorem State.Ranges.setPc (h : s.Ranges) {a : Word} (ha : a.toNat ≤ 0x10FE) : (s.setPc a).Ranges :=
  ⟨h.mem_wf, h.index_le, ha, h.stack_le⟩

theorem State.Ranges.setI (h : s.Ranges) (v : Word) : (s.setI v).Ranges :=
  ⟨h.mem_wf, s.setI_le v, h.pc_le, h.stack_le⟩

theorem State.Ranges.setMem (h : s.Ranges) {m : Memory} (hm : Memory.wf m) : (s.setMem m).Ranges :=
  ⟨hm, h.index_le, h.pc_le, h.stack_le⟩

/-- The ranges depend on the four fields they speak of. -/
theorem State.Ranges.congr (h : s.Ranges) (hmem : t.mem = s.mem) (hI : t.I = s.I) (hpc : t.pc = s.pc) (hstack : t.stack = s.stack) :
    t.Ranges :=
  ⟨hmem ▸ h.mem_wf, hI ▸ h.index_le, hpc ▸ h.pc_le, hstack ▸ h.stack_le⟩

theorem State.advance_pc_toNat (s : State) : s.advance.pc.toNat = (s.pc.toNat + 2) % 65536 :=
  BitVec.toNat_add s.pc 2#16

theorem State.Ranges.skipIf (h : s.Ranges) (hpc : s.pc.toNat ≤ 0x1000) (c : Bool) : (s.skipIf c).Ranges := by
  cases c with
  | false => exact h
  | true =>
    have hadd := s.advance_pc_toNat
    exact h.setPc (show s.advance.pc.toNat ≤ 0x10FE by omega)

/-- A pushed pc joins the entries (R27). -/
theorem State.Ranges.stack_set_le (h : s.Ranges) (hpc : s.pc.toNat ≤ 0x1000) (hsp : s.sp.val < 16) :
    ∀ a ∈ (s.stack.set s.sp.val s.pc hsp).toList, a.toNat ≤ 0x1000 := by
  intro a ha
  rw [Vector.toList_set] at ha
  rcases List.mem_or_eq_of_mem_set ha with ha | rfl
  · exact h.stack_le a ha
  · exact hpc

theorem State.Ranges.entry_le (h : s.Ranges) {k : Nat} (hk : k < 16) : (s.stack[k]).toNat ≤ 0x1000 :=
  h.stack_le _ (Vector.mem_toList_iff.mpr (Vector.getElem_mem hk))

/-- From a state whose pc can be pushed, an instruction that does not fault keeps the ranges. -/
theorem Effect.ranges (he : Effect s i t) (h : s.Ranges) (hpc : s.pc.toNat ≤ 0x1000) (ht : t.status = .running) : t.Ranges := by
  cases he
  case jump a ha _ => exact h.setPc ha
  case skip c _ => exact h.skipIf hpc c
  case push nnn hsp => exact ⟨h.mem_wf, h.index_le, zextAddr_le nnn, h.stack_set_le hpc hsp⟩
  case pop k hk => exact ⟨h.mem_wf, h.index_le, Nat.le_trans (h.entry_le hk) (by decide), h.stack_le⟩
  case index v _ => exact h.setI v
  case store bs hle _ => exact h.setMem (Memory.wf_writeBytes h.mem_wf hle)
  case fault k _ => cases ht
  all_goals exact h.congr (by simp) (by simp) (by simp) (by simp)

/-! ### The step, whatever the parameters -/

theorem State.Inv.keyWaitStep {x : RegIdx} (h : s.Inv) (hs : s.status = .running) : (s.keyWaitStep x).Inv := by
  cases hk : s.kev with
  | none => rwa [State.keyWaitStep_of_none x hk]
  | some k =>
    rw [State.keyWaitStep_of_some x hk]
    exact State.Ranges.inv_of_running (h.ranges.congr rfl rfl rfl rfl) hs (by simp)

/-- A word was fetched, so that pc after the advance is at most 0x1000 (R27, R102). -/
theorem State.advance_pc_le_of_fetch {w : Word} (hf : s.fetchWord = some w) : s.advance.pc.toNat ≤ 0x1000 := by
  have hadd := s.advance_pc_toNat
  rcases s.fetchWord_cases with ⟨hle, -⟩ | ⟨-, hnone⟩
  · omega
  · rw [hnone] at hf
    cases hf

theorem State.Inv.advance_ranges {w : Word} (h : s.Inv) (hf : s.fetchWord = some w) : s.advance.Ranges :=
  h.ranges.setPc (Nat.le_trans (State.advance_pc_le_of_fetch hf) (by decide))

theorem State.Inv.of_effect {w : Word} (h : s.Inv) (hs : s.status = .running) (hw : s.wait = none) (hf : s.fetchWord = some w)
    (hd : decodeWord w = .ok i) (he : Effect s.advance i t) : t.Inv := by
  by_cases ht : t.status = .running
  · have hkev : t.kev = none := he.kev_eq_none (h.kev_eq_none hw)
    exact (he.ranges (h.advance_ranges hf) (State.advance_pc_le_of_fetch hf) ht).inv_of_running ht (by simp [hkev])
  · obtain ⟨k, hrec, rfl⟩ := he.eq_of_faulted hs hf hd ht
    exact h.faulted hw hrec

theorem State.Inv.unknownOpcode {w : Word} (h : s.Inv) (hs : s.status = .running) (hw : s.wait = none) (hf : s.fetchWord = some w)
    (hd : decodeWord w = .error (.unknownOpcode w)) (policy : UnknownOpcodePolicy) : (s.advance.unknownOpcode policy w).Inv := by
  cases policy with
  | fatal =>
    rw [s.advance_unknownOpcode_fatal]
    exact h.faulted hw (State.faultRecorded_unknownOpcode hf hd)
  | skip =>
    exact (h.advance_ranges hf).inv_of_running hs h.kev_waits

theorem State.Inv.stepBy {run : Instr → State → Host.Outcome State Fault Refusal} {policy : UnknownOpcodePolicy}
    (hrun : ∀ {i : Instr} {s t : State}, run i s = .next t → Effect s i t) (h : s.Inv) (hstep : stepBy run policy s = .next t) :
    t.Inv := by
  obtain ⟨-, rfl⟩ | ⟨x, hs, -, rfl⟩ | ⟨-, hw, hf, rfl⟩ | ⟨w, i, hs, hw, hf, hd, hi⟩ |
    ⟨w, hs, hw, hf, hd, rfl⟩ := stepBy_cases hstep
  · exact h
  · exact h.keyWaitStep hs
  · refine h.halt hw (Nat.lt_of_not_le fun hle => ?_)
    rw [s.fetchWord_of_le hle] at hf
    cases hf
  · exact h.of_effect hs hw hf hd (hrun hi)
  · exact h.unknownOpcode hs hw hf hd policy

end

/-- Settles O17: each kind of step keeps it, an instruction by the kinds of its effect. -/
theorem stepKeepsInvariant : Obligations.StepKeepsInvariant :=
  fun _ _ h hstep => h.stepBy effect_of_exec hstep

/-! ### Reset and the transactions -/

theorem State.ranges_reset : State.reset.Ranges :=
  ⟨Memory.wf_nil, by decide, by decide, by simp [State.reset]⟩

/-- The reset state, with whatever canonical memory and whatever draws. -/
theorem State.inv_of_reset {m : Memory} (hm : Memory.wf m) (n : Nat) : State.Inv { State.reset.setMem m with draws := n } :=
  State.Ranges.inv_of_running ((State.ranges_reset.setMem hm).congr rfl rfl rfl rfl) rfl fun hk => hk

/-- Settles O18: its memory lists nothing. -/
theorem resetMeetsInvariant : Obligations.ResetMeetsInvariant :=
  State.inv_of_reset Memory.wf_nil 0

section
variable {s t : State} {b b' : Block} {r : Reply}

/-- What a LOAD that is not refused does: it is in its place, and it copies the image or answers its error (R283, R284). -/
theorem loadOn_cases {restarted : State} {image : List Byte} (h : b.loadOn restarted image = .next (b', r)) :
    (b.phase = .fresh ∧ b.state = restarted) ∧
    ((∃ t, b.state.load image = .ok t ∧ b' = ⟨t, .begun⟩ ∧ r = .done) ∨
      ∃ e, b.state.load image = .error e ∧ b' = ⟨b.state, .loadFailed⟩ ∧ r = .loadFailed e) := by
  unfold Block.loadOn at h
  split at h
  next hplace =>
    refine ⟨hplace, ?_⟩
    split at h
    next t hl => cases h; exact .inl ⟨t, hl, rfl, rfl⟩
    next e hl => cases h; exact .inr ⟨e, hl, rfl, rfl⟩
  next => cases h

/-- What a STEP that is not refused does (R101, R104). -/
theorem stepOnceBy_cases {step : State → Host.Outcome State Fault Refusal} (h : b.stepOnceBy step = .next (b', r)) :
    b.phase ≠ .loadFailed ∧ step b.state = .next b'.state ∧ b'.phase = .begun ∧ r = .stepped b'.state.status.stepResult := by
  unfold Block.stepOnceBy at h
  split at h
  next => cases h
  next hp =>
    split at h
    next t ht => cases h; exact ⟨hp, ht, rfl, rfl⟩
    next => cases h
    next => cases h

/-- An image that is loaded fits below the end of memory, is of even length, and stands at 0x200 (R283). -/
theorem State.load_eq_ok {image : List Byte} (h : s.load image = .ok t) :
    image.length ≤ 3584 ∧ image.length % 2 = 0 ∧ t = s.setMem (Memory.writeBytes s.mem 0x200 image) := by
  unfold State.load at h
  split at h
  next => cases h
  next hle =>
    split at h
    next => cases h
    next heven => cases h; exact ⟨Nat.le_of_not_lt hle, by omega, rfl⟩

theorem State.Inv.load {image : List Byte} (h : s.Inv) (hs : s.status = .running) (hl : s.load image = .ok t) : t.Inv := by
  obtain ⟨hle, -, rfl⟩ := State.load_eq_ok hl
  have hwf : Memory.wf (Memory.writeBytes s.mem 0x200 image) := Memory.wf_writeBytes h.mem_wf (by show _ ≤ 4096; omega)
  exact (h.ranges.setMem hwf).inv_of_running hs h.kev_waits

theorem State.Inv.tick (h : s.Inv) : s.tick.Inv :=
  ⟨h.mem_wf, h.index_le, h.pc_le, h.stack_le, h.kev_waits, h.wait_runs, h.halted_pc, h.fault_record⟩

theorem State.Inv.writeKey (h : s.Inv) (k : KeyIdx) (p : Bool) : (s.writeKey k p).Inv :=
  ⟨h.mem_wf, h.index_le, h.pc_le, h.stack_le, h.kev_waits, h.wait_runs, h.halted_pc, h.fault_record⟩

/-- A key is latched only in a wait (R35). -/
theorem State.Inv.latchKey (h : s.Inv) (k : KeyIdx) (hw : s.wait.isSome) : (s.latchKey k).Inv :=
  ⟨h.mem_wf, h.index_le, h.pc_le, h.stack_le, fun _ => hw, h.wait_runs, h.halted_pc, h.fault_record⟩

theorem State.Inv.setKey (h : s.Inv) (k : Nat) (p : Bool) : (s.setKey k p).Inv := by
  unfold State.setKey State.setKeyIdx
  split
  · split
    next hlatch =>
      obtain ⟨⟨-, hw⟩, -⟩ : (_ ∧ s.wait.isSome = true) ∧ s.kev.isNone = true := by simpa only [Bool.and_eq_true] using hlatch
      exact (h.writeKey _ p).latchKey _ hw
    next => exact h.writeKey _ p
  · exact h

end

/-- Settles O19: RESET gives a reset state, LOAD writes memory below its end, STEP is O17, and the others leave what the invariant speaks of. -/
theorem transactionsKeepInvariant : Obligations.TransactionsKeepInvariant := by
  intro b b' tx r hinv h
  cases tx with
  | reset =>
    cases h
    exact State.inv_of_reset Memory.wf_nil b.state.draws
  | load image =>
    obtain ⟨⟨-, hplace⟩, ⟨t, hl, rfl, -⟩ | ⟨e, -, rfl, -⟩⟩ := loadOn_cases h
    · exact hinv.load (by rw [hplace]; rfl) hl
    · exact hinv
  | step =>
    obtain ⟨-, hstep, -⟩ := stepOnceBy_cases h
    exact stepKeepsInvariant _ _ hinv hstep
  | tick =>
    cases h
    exact hinv.tick
  | setKey k p =>
    cases h
    exact hinv.setKey k p
  | getDisplay | getSoundTimer | getDelayTimer | getStatus =>
    cases h
    exact hinv

end Sys2Proof.Machine

/-! # Proofs: the other control transfers and the key skips (41_control.md R140, R143, R150; 45_keys_timers.md R230, R231) -/

namespace Sys2Proof.Machine

/-- Settles O22: the sum of a 12-bit address and a byte does not pass 16 bits. -/
theorem jpV0AddsV0 : Obligations.JpV0AddsV0 :=
  fun nnn => ⟨decodeWord_jpV0 nnn, fun s => ⟨s.setPc (zextAddr nnn + zextByte (s.reg 0x0#4)), rfl,
    zextAddr_add_zextByte_toNat nnn _, s.onlyPc_setPc _⟩⟩

/-- Settles O23: the push is defined below sixteen entries, and the fault is the one for a full stack. -/
theorem callPushesAndJumps : Obligations.CallPushesAndJumps := by
  refine fun nnn => ⟨decodeWord_call nnn, fun s => ⟨fun hlt => ?push, fun hfull => ?full⟩⟩
  case push => exact ⟨_, exec_call_of_lt nnn s hlt, rfl, rfl, zextAddr_toNat nnn, rfl, fun _ => rfl, fun _ => rfl⟩
  case full => exact exec_faultedFrom (k := .stackOverflow) (i := .call nnn) ⟨hfull, nnn, rfl⟩

/-- Settles O24: the two answers of a pop. -/
theorem retPopsOrDoesNothing : Obligations.RetPopsOrDoesNothing :=
  ⟨decodeWord_ret, fun s => ⟨exec_ret_of_empty s,
    fun _ hk hsp => ⟨_, exec_ret_of_succ s hk hsp, rfl, rfl, rfl, fun _ => rfl, fun _ => rfl⟩⟩⟩

/-- Settles O25: the entry popped is the one that was pushed last. -/
theorem callThenRetReturns : Obligations.CallThenRetReturns := by
  intro nnn s t u hlt hcall hstack hsp
  cases hcall.symm.trans (exec_call_of_lt nnn s hlt)
  have hk : u.sp.val = s.sp.val + 1 := congrArg Fin.val hsp
  have hentry : u.stack[s.sp.val] = s.pc := by simp [hstack]
  rw [exec_ret_of_succ u hlt hk, hentry]

/-! ### The key skips (R233) -/

/-- Settles O28: each is a skip on the key test, which a number above 0x0F fails. -/
theorem keySkips : Obligations.KeySkips := by
  refine fun x => ⟨decodeWord_skp x, decodeWord_sknp x, fun s => ?_⟩
  refine ⟨_, _, rfl, rfl, s.onlyPc_skipIf _, s.onlyPc_skipIf _, fun k hk hdown => ?_, fun k hk hup => ?_, fun hno => ?_⟩
  · simp [s.pressed_of_key _ k hk, hdown]
  · simp [s.pressed_of_key _ k hk, hup]
  · simp [s.pressed_of_no_key _ hno]

end Sys2Proof.Machine

/-! # Proofs: the arithmetic with a flag, the shifts and the random byte (42_alu.md R168-R173) -/

namespace Sys2Proof.Machine

/-! ### Operations that write a result, then the flag (R109) -/

theorem State.onlyRegs_setRegAndFlag (s : State) (x : RegIdx) (b : Byte) (c : Bool) : s.onlyRegs (s.setRegAndFlag x b c) [x, vF] := by
  refine ⟨rfl, fun j hj => ?_, fun _ => rfl⟩
  by_contra hne
  rcases State.eq_of_reg_setRegAndFlag_ne hne with rfl | rfl <;> simp at hj

/-- An instruction that writes b to Vx and then the flag c: VF is the flag, Vx is b where x is not F, and nothing else changes. -/
theorem exec_setRegAndFlag {i : Instr} {s : State} {x : RegIdx} {b : Byte} {c : Bool} (hexec : exec i s = .next (s.setRegAndFlag x b c)) :
    ∃ t, exec i s = .next t ∧ s.onlyRegs t [x, vF] ∧ (x ≠ vF → t.reg x = b) ∧ t.reg vF = flagByte c :=
  ⟨_, hexec, s.onlyRegs_setRegAndFlag x b c, fun hx => by simp [Ne.symm hx], by simp⟩

/-- A difference modulo 256, as integers. -/
theorem toNat_sub_byte (a b : Byte) : ((a - b).toNat : Int) = ((a.toNat : Int) - b.toNat) % 256 := by
  have := a.isLt
  have := b.isLt
  rw [BitVec.toNat_sub]
  omega

/-- Settles O31: each writes the 8-bit result, then the flag of the exact operation. -/
theorem arithmeticSetsFlag : Obligations.ArithmeticSetsFlag := by
  refine fun x y => ⟨decodeWord_addReg x y, decodeWord_subReg x y, decodeWord_subnReg x y, fun s => ⟨?add, ?sub, ?subn⟩⟩
  case add =>
    obtain ⟨t, ht, hframe, hsum, hcarry⟩ := exec_setRegAndFlag (i := .addReg x y) (s := s) rfl
    exact ⟨t, ht, hframe, fun hx => by rw [hsum hx, BitVec.toNat_add], by simp [hcarry, carryFlag]⟩
  case sub =>
    obtain ⟨t, ht, hframe, hdiff, hborrow⟩ := exec_setRegAndFlag (i := .subReg x y) (s := s) rfl
    exact ⟨t, ht, hframe, fun hx => by rw [hdiff hx, toNat_sub_byte], by simp [hborrow, noBorrowFlag]⟩
  case subn =>
    obtain ⟨t, ht, hframe, hdiff, hborrow⟩ := exec_setRegAndFlag (i := .subnReg x y) (s := s) rfl
    exact ⟨t, ht, hframe, fun hx => by rw [hdiff hx, toNat_sub_byte], by simp [hborrow, noBorrowFlag]⟩

/-! The bit that falls out, as a number. -/

theorem flagByte_getLsbD_toNat (a : Byte) (k : Nat) : (flagByte (a.getLsbD k)).toNat = a.toNat / 2 ^ k % 2 := by
  rw [flagByte_toNat, BitVec.getLsbD, Nat.testBit_eq_decide_div_mod_eq]
  rcases Nat.mod_two_eq_zero_or_one (a.toNat / 2 ^ k) with h | h <;> simp [h]

theorem lowBitFlag_toNat (a : Byte) : (flagByte (lowBitFlag a)).toNat = a.toNat % 2 := by
  rw [← Nat.div_one a.toNat]
  exact flagByte_getLsbD_toNat a 0

theorem highBitFlag_toNat (a : Byte) : (flagByte (highBitFlag a)).toNat = a.toNat / 128 := by
  have := a.isLt
  have hbit : (flagByte (highBitFlag a)).toNat = a.toNat / 128 % 2 := flagByte_getLsbD_toNat a 7
  omega

/-- Settles O32: each writes the shifted byte, then the bit that fell out; no y stands in either. -/
theorem shiftsSetFlagAndIgnoreVy : Obligations.ShiftsSetFlagAndIgnoreVy := by
  refine fun x y => ⟨decodeWord_shr x y, decodeWord_shl x y, fun s => ⟨?shr, ?shl⟩⟩
  case shr =>
    obtain ⟨t, ht, hframe, hhalf, hbit⟩ := exec_setRegAndFlag (i := .shr x y) (s := s) rfl
    refine ⟨t, fun _ => ht, hframe, fun hx => ?_, by rw [hbit, lowBitFlag_toNat]⟩
    rw [hhalf hx, BitVec.toNat_ushiftRight, Nat.shiftRight_one]
  case shl =>
    obtain ⟨t, ht, hframe, hdouble, hbit⟩ := exec_setRegAndFlag (i := .shl x y) (s := s) rfl
    refine ⟨t, fun _ => ht, hframe, fun hx => ?_, by rw [hbit, highBitFlag_toNat]⟩
    rw [hdouble hx, BitVec.toNat_shiftLeft, Nat.shiftLeft_eq, Nat.mul_comm]

/-- Settles O33: a bit of the result is that of the draw and that of the mask. -/
theorem rndMasksFreeDraw : Obligations.RndMasksFreeDraw := by
  refine fun x kk => ⟨decodeWord_rnd x kk, fun s => ⟨_, rfl, fun b _ => ?bits, rfl, fun j hj => ?others, fun _ => rfl⟩⟩
  case bits =>
    rw [State.countDraw_reg, State.reg_setReg_self, BitVec.getLsbD_and]
    rfl
  case others => exact s.reg_setReg_of_ne x _ hj

end Sys2Proof.Machine

/-! # Proofs: the other writes of I, the stores and the loads (43_index_memory.md R191-R198, 20_memory.md R51-R58) -/

namespace Sys2Proof.Machine

/-! ### The index register (R191, R192) -/

theorem State.setI_add_zextByte_toNat (s : State) (b : Byte) :
    (s.setI (s.I + zextByte b)).I.toNat = (s.I.toNat + b.toNat) % 4096 := by
  rw [s.setI_I_toNat, BitVec.toNat_add, zextByte_toNat]
  omega

/-- Under any font address (R11). -/
theorem State.setI_glyphAddr_toNat (s : State) (fontBase : Nat) (v : Byte) :
    (s.setI (glyphAddr fontBase v)).I.toNat = (fontBase + 5 * (v.toNat % 16)) % 4096 := by
  rw [s.setI_I_toNat, glyphAddr, BitVec.toNat_ofNat, and_0x0F_toNat]
  omega

/-- Settles O37: the mask of I is the remainder modulo 4096. -/
theorem addIAndLdFSetIndex : Obligations.AddIAndLdFSetIndex :=
  fun x => ⟨decodeWord_addIVx x, decodeWord_ldFVx x, fun s =>
    ⟨⟨_, rfl, s.setI_add_zextByte_toNat _, s.onlyI_setI _⟩, _, rfl, s.setI_glyphAddr_toNat Param.fontBase _, s.onlyI_setI _⟩⟩

/-! ### Stores -/

theorem State.onlyBytes_writeBytes (s : State) (a : Nat) (bs : List Byte) :
    s.onlyBytes (s.setMem (Memory.writeBytes s.mem a bs)) a bs.length :=
  ⟨rfl, fun _ => rfl, fun _ hc => Memory.byteAt_writeBytes_of_outside s.mem a bs hc⟩

/-- The three bytes that LD B stores. -/
theorem byteAt_writeBytes_decimalDigits (m : Memory) (a : Nat) (v : Byte) :
    (Memory.byteAt (Memory.writeBytes m a (decimalDigits v)) a).toNat = v.toNat / 100 ∧
    (Memory.byteAt (Memory.writeBytes m a (decimalDigits v)) (a + 1)).toNat = v.toNat / 10 % 10 ∧
    (Memory.byteAt (Memory.writeBytes m a (decimalDigits v)) (a + 2)).toNat = v.toNat % 10 := by
  have := v.isLt
  have hinside {k : Nat} (hk : k < 3) := Memory.byteAt_writeBytes_of_inside m a (decimalDigits v) hk
  refine ⟨?hundreds, ?tens, ?units⟩
  case hundreds =>
    have hbyte : Memory.byteAt (Memory.writeBytes m a (decimalDigits v)) a = BitVec.ofNat 8 (v.toNat / 100) :=
      hinside (k := 0) (by decide)
    rw [hbyte, BitVec.toNat_ofNat]
    omega
  case tens =>
    rw [hinside (k := 1) (by decide)]
    show (BitVec.ofNat 8 (v.toNat / 10 % 10)).toNat = _
    rw [BitVec.toNat_ofNat]
    omega
  case units =>
    rw [hinside (k := 2) (by decide)]
    show (BitVec.ofNat 8 (v.toNat % 10)).toNat = _
    rw [BitVec.toNat_ofNat]
    omega

/-- Settles O38: the digits are written to their range alone; past the end the store is a fault. -/
theorem bcdStoresDigits : Obligations.BcdStoresDigits := by
  refine fun x => ⟨decodeWord_ldBVx x, fun s => ⟨fun hle => ?store, fun hlt => ?fault⟩⟩
  case store =>
    obtain ⟨hhundreds, htens, hunits⟩ := byteAt_writeBytes_decimalDigits s.mem s.I.toNat (s.reg x)
    exact ⟨_, exec_ldBVx_of_le x s hle, hhundreds, htens, hunits, s.onlyBytes_writeBytes _ _⟩
  case fault => exact exec_faultedFrom (k := .memoryBoundsViolation) (i := .ldBVx x) (.inl ⟨x, rfl, hlt⟩)

/-- After a store of V0 to Vx the byte at I + j is Vj. -/
theorem byteAt_of_ldMemVx {s t : State} {x j : RegIdx} (hle : s.I.toNat + x.toNat + 1 ≤ 4096) (h : exec (.ldMemVx x) s = .next t)
    (hj : j.toNat ≤ x.toNat) : Memory.byteAt t.mem (s.I.toNat + j.toNat) = s.reg j := by
  cases h.symm.trans (exec_ldMemVx_of_le x s hle)
  have hlen : j.toNat < (s.regsTo x).length := by
    rw [State.regsTo_length]
    omega
  exact (Memory.byteAt_writeBytes_of_inside s.mem s.I.toNat (s.regsTo x) hlen).trans (s.getElem_regsTo x j hlen)

/-- Settles O39: the bytes are those of the registers, written to their range alone. -/
theorem registerStore : Obligations.RegisterStore := by
  refine fun x => ⟨decodeWord_ldMemVx x, fun s hle => ?_⟩
  have h := exec_ldMemVx_of_le x s hle
  refine ⟨_, h, fun j hj => byteAt_of_ldMemVx hle h hj, ?_⟩
  rw [← s.regsTo_length x]
  exact s.onlyBytes_writeBytes _ _

/-! ### Loads -/

theorem State.loadRegs_eq (s : State) (k : Nat) (bs : List Byte) : s.loadRegs k bs = { s with V := (s.loadRegs k bs).V } := by
  induction bs generalizing s k with
  | nil => rfl
  | cons b bs ih => exact ih (s.setReg (BitVec.ofNat 4 k) b) (k + 1)

/-- After a load of V0 to Vx each of them is its byte from I on, and every other register is as before. -/
theorem reg_of_ldVxMem {s : State} {x : RegIdx} (hle : s.I.toNat + x.toNat + 1 ≤ 4096) :
    ∃ t, exec (.ldVxMem x) s = .next t ∧
      (∀ j : RegIdx, j.toNat ≤ x.toNat → t.reg j = Memory.byteAt s.mem (s.I.toNat + j.toNat)) ∧
      (∀ j : RegIdx, x.toNat < j.toNat → t.reg j = s.reg j) ∧
      t = { s with V := t.V } ∧ s.sameBytes t := by
  have hx := x.isLt
  refine ⟨_, exec_ldVxMem_of_le x s hle, fun j hj => ?named, fun j hj => ?other, ?frame, fun a => ?bytes⟩
  case named =>
    rw [s.reg_loadRegs 0 _ (by simp; omega), dif_pos (by simp; omega)]
    simp
  case other => rw [s.reg_loadRegs 0 _ (by simp; omega), dif_neg (by simp; omega)]
  case frame => exact s.loadRegs_eq 0 _
  case bytes => rw [State.loadRegs_mem]

/-- Settles O40: the load writes the registers up to x alone. -/
theorem registerLoad : Obligations.RegisterLoad :=
  fun x => ⟨decodeWord_ldVxMem x, fun _ hle => reg_of_ldVxMem hle⟩

/-- Settles O41: each byte loaded is the one that the store put there. -/
theorem storeThenLoadRestores : Obligations.StoreThenLoadRestores := by
  intro x s t u hle hstore hmem hI
  obtain ⟨v, hv, hnamed, hother, -⟩ := reg_of_ldVxMem (s := u) (x := x) (by rwa [hI])
  refine ⟨v, hv, fun j hj => ?_, hother⟩
  rw [hnamed j hj, hmem, hI, byteAt_of_ldMemVx hle hstore hj]

/-! ### The fetch of a stored word (R53, R64) -/

/-- Settles O43: the two bytes fetched are those that the store put there. -/
theorem fetchSeesStore : Obligations.FetchSeesStore := by
  intro x j k s t hle hjk hkx hstore
  have hj : (j.setWidth 16).toNat = j.toNat := by
    have := j.isLt
    rw [BitVec.toNat_setWidth]
    omega
  have hpc : (s.I + j.setWidth 16).toNat = s.I.toNat + j.toNat := by
    rw [BitVec.toNat_add, hj]
    omega
  have hhi : Memory.byteAt t.mem (s.I.toNat + j.toNat) = s.reg j := byteAt_of_ldMemVx hle hstore (by omega)
  have hlo : Memory.byteAt t.mem (s.I.toNat + j.toNat + 1) = s.reg k := by
    rw [Nat.add_assoc, ← hjk]
    exact byteAt_of_ldMemVx hle hstore hkx
  rw [State.fetchWord_of_le _ (by show (s.I + j.setWidth 16).toNat ≤ _; omega)]
  show some (wordOfBytes (Memory.byteAt t.mem (s.I + j.setWidth 16).toNat) (Memory.byteAt t.mem ((s.I + j.setWidth 16).toNat + 1))) = _
  rw [hpc, hhi, hlo]
  rfl

/-! ### Canonical memories (log 32) -/

section
variable {m m' : Memory}

/-- An entry of a canonical memory is what its address reads as, and the addresses of a canonical memory differ. -/
theorem Memory.byteAt_of_mem (h : Memory.wf m) {c : Host.Cell} (hc : c ∈ m) : Memory.byteAt m c.1 = c.2 := by
  induction m with
  | nil => cases hc
  | cons p m ih =>
    obtain ⟨hpairs, hcells⟩ := h
    obtain ⟨hp, hm⟩ := List.pairwise_cons.mp hpairs
    rw [show p :: m = (p.1, p.2) :: m from rfl, Memory.byteAt_cons]
    rcases List.mem_cons.mp hc with rfl | hc
    · exact if_pos rfl
    · rw [if_neg (Nat.ne_of_lt (hp c hc))]
      exact ih ⟨hm, fun c hc => hcells c (List.mem_cons_of_mem p hc)⟩ hc

/-- An address that does not read as its reset content is listed. -/
theorem Memory.mem_of_byteAt_ne {a : Nat} (h : Memory.byteAt m a ≠ Memory.unlisted a) : (a, Memory.byteAt m a) ∈ m := by
  induction m with
  | nil => exact absurd rfl h
  | cons p m ih =>
    rw [show p :: m = (p.1, p.2) :: m from rfl, Memory.byteAt_cons] at h ⊢
    by_cases hp : p.1 = a
    · simp [hp.symm]
    · rw [if_neg hp] at h ⊢
      exact List.mem_cons_of_mem _ (ih h)

theorem Memory.subset_of_byteAt_eq (h : Memory.wf m) (hread : ∀ a, a < 4096 → Memory.byteAt m a = Memory.byteAt m' a) : m ⊆ m' := by
  intro c hc
  obtain ⟨hlt, hne⟩ := h.2 c hc
  have hval : Memory.byteAt m' c.1 = c.2 := by rw [← hread c.1 hlt, Memory.byteAt_of_mem h hc]
  have hmem := Memory.mem_of_byteAt_ne (m := m') (a := c.1) (by rwa [hval])
  rwa [hval] at hmem

/-- Strictly rising lists with the same entries are equal. -/
theorem Memory.eq_of_subset (h : Memory.wf m) (h' : Memory.wf m') (hsub : m ⊆ m') (hsub' : m' ⊆ m) : m = m' := by
  have : Std.Irrefl fun c d : Host.Cell => c.1 < d.1 := ⟨fun c => Nat.lt_irrefl c.1⟩
  have : Std.Antisymm fun c d : Host.Cell => c.1 < d.1 := ⟨fun _ _ hlt hgt => absurd hlt (Nat.lt_asymm hgt)⟩
  exact List.Subset.antisymm_of_pairwise h.1 h'.1 hsub hsub'

end

/-- Settles O44: what is read at the addresses below 4096 fixes the entries, and they stand in rising order. -/
theorem canonicalMemoriesAgree : Obligations.CanonicalMemoriesAgree :=
  fun _ _ h h' hread => Memory.eq_of_subset h h' (Memory.subset_of_byteAt_eq h hread)
    (Memory.subset_of_byteAt_eq h' fun a ha => (hread a ha).symm)

end Sys2Proof.Machine

/-! # Proofs: the sprite compositor, pixel by pixel, and the writers of the display (44_display.md R211-R216) -/

namespace Sys2Proof.Machine

/-! ### The pixels a sprite toggles -/

section
variable {s t u : State} {edge : SpriteEdge} {x y : RegIdx} {n : Nat}

/-- The toggled pixels, said with the loops of the compositor: those in the list of the sprite at I. -/
theorem State.spriteToggles_iff_mem {x0 y0 : Nat} {px : Fin 64} {py : Fin 32} :
    s.spriteToggles edge x0 y0 n px py ↔
      (px, py) ∈ spritePixels edge x0 y0 ((List.range n).map fun k => Memory.byteAt s.mem (s.I.toNat + k)) := by
  rw [mem_spritePixels]
  have hplace (r j : Nat) : place edge (x0 + j) (y0 + r) = some (px, py) ↔ match edge with
      | .clip => x0 + j = px.val ∧ y0 + r = py.val
      | .wrap => (x0 + j) % 64 = px.val ∧ (y0 + r) % 32 = py.val := by
    cases edge with
    | clip => exact place_clip_eq_some
    | wrap => exact place_wrap_eq_some
  constructor
  · rintro ⟨r, j, hr, hj, hbit, hp⟩
    exact ⟨r, by simpa using hr, j, hj, by simpa using hbit, (hplace r j).mpr hp⟩
  · rintro ⟨r, hr, j, hj, hbit, hp⟩
    exact ⟨r, j, by simpa using hr, hj, by simpa using hbit, (hplace r j).mp hp⟩

/-- A DRW that reads its sprite draws it, under either edge policy. -/
theorem drwWith_drewSprite (edge : SpriteEdge) (x y : RegIdx) (n : BitVec 4) (s : State) (hle : s.I.toNat + n.toNat ≤ 4096) :
    s.drewSprite (drwWith edge x y n s) edge x y n.toNat := by
  obtain ⟨drawn, hdrawn, hdrw⟩ := drwWith_of_le edge x y n s hle
  have hn := n.isLt
  obtain ⟨hpixel, hflag⟩ := drawSprite_spec edge (startColumn (s.reg x)) (startRow (s.reg y))
    ((List.range n.toNat).map fun k => Memory.byteAt s.mem (s.I.toNat + k)) (by simp; omega) s.disp
  rw [← hdrawn] at hpixel hflag
  have hVF : (drwWith edge x y n s).reg vF = flagByte drawn.2 := by rw [hdrw, State.reg_setReg_self]
  rw [State.drewSprite]
  refine ⟨fun px py ht => ?on, fun px py ht => ?off, fun hc => ?collides, fun hc => ?clear, ?frame, fun j hj => ?regs, ?bytes⟩
  case on =>
    rw [hdrw]
    exact (hpixel px py).trans (if_pos (State.spriteToggles_iff_mem.mp ht))
  case off =>
    rw [hdrw]
    exact (hpixel px py).trans (if_neg fun hmem => ht (State.spriteToggles_iff_mem.mpr hmem))
  case collides =>
    obtain ⟨px, py, ht, hon⟩ := hc
    rw [hVF, hflag.mpr ⟨(px, py), State.spriteToggles_iff_mem.mp ht, hon⟩]
    rfl
  case clear =>
    have hfalse : drawn.2 = false := Bool.eq_false_iff.mpr fun htrue => by
      obtain ⟨⟨px, py⟩, hmem, hon⟩ := hflag.mp htrue
      exact hc ⟨px, py, State.spriteToggles_iff_mem.mpr hmem, hon⟩
    rw [hVF, hfalse]
    rfl
  case frame => rw [hdrw]; rfl
  case regs => rw [hdrw]; exact State.reg_setReg_of_ne _ vF _ hj
  case bytes => rw [hdrw]; exact fun _ => rfl

/-- The sprite that a DRW draws is fixed by the memory, I and its two coordinate registers. -/
theorem State.drewSprite_of_same_sprite {v : State} (hmem : u.mem = s.mem) (hI : u.I = s.I) (hx : u.reg x = s.reg x) (hy : u.reg y = s.reg y)
    (h : u.drewSprite v edge x y n) :
    (∀ px py, s.spriteToggles edge ((s.reg x).toNat % 64) ((s.reg y).toNat % 32) n px py → v.pixel px py = !u.pixel px py) ∧
    (∀ px py, ¬ s.spriteToggles edge ((s.reg x).toNat % 64) ((s.reg y).toNat % 32) n px py → v.pixel px py = u.pixel px py) ∧
    (v.reg vF = 0x01#8 ↔
      ∃ px py, s.spriteToggles edge ((s.reg x).toNat % 64) ((s.reg y).toNat % 32) n px py ∧ u.pixel px py = true) := by
  have htoggles : u.spriteToggles = s.spriteToggles := by
    funext edge x0 y0 n px py
    unfold State.spriteToggles
    rw [hmem, hI]
  obtain ⟨hon, hoff, hcollides, hclear, -⟩ := h
  rw [htoggles, hx, hy] at hon hoff hcollides hclear
  refine ⟨hon, hoff, fun hone => ?_, hcollides⟩
  by_contra hc
  rw [hclear hc] at hone
  cases hone

end

/-- Settles O46: the compositor flips the list of those pixels, in which none stands twice. -/
theorem drwXorsSprite : Obligations.DrwXorsSprite :=
  fun x y n => ⟨decodeWord_drw x y n, fun s hle =>
    ⟨⟨_, exec_drw x y n s, drwWith_drewSprite _ x y n s hle⟩, fun edge => drwWith_drewSprite edge x y n s hle⟩⟩

/-- Settles O47: the second draw inverts the same pixels again, and finds on those that the first turned on. -/
theorem drawTwiceRestores : Obligations.DrawTwiceRestores := by
  intro x y n s t u v hle hst hdisp hmem hI hx hy huv
  cases hst.symm.trans (exec_drw x y n s)
  cases huv.symm.trans (exec_drw x y n u)
  obtain ⟨hon, hoff, -⟩ := drwWith_drewSprite Param.spriteEdge x y n s hle
  obtain ⟨hon', hoff', hflag⟩ := State.drewSprite_of_same_sprite hmem hI hx hy (drwWith_drewSprite Param.spriteEdge x y n u (by rwa [hI]))
  have hu (px py) : u.pixel px py = (drwWith Param.spriteEdge x y n s).pixel px py := congrArg (Display.pixel · px py) hdisp
  refine ⟨Display.ext_pixel fun px py => ?_, hflag.trans ⟨?_, ?_⟩⟩
  · show State.pixel _ px py = State.pixel _ px py
    by_cases ht : s.spriteToggles Param.spriteEdge ((s.reg x).toNat % 64) ((s.reg y).toNat % 32) n.toNat px py
    · rw [hon' px py ht, hu, hon px py ht, Bool.not_not]
    · rw [hoff' px py ht, hu, hoff px py ht]
  · rintro ⟨px, py, ht, htrue⟩
    rw [hu] at htrue
    exact ⟨px, py, by simpa [hon px py ht] using htrue, htrue⟩
  · rintro ⟨px, py, hfalse, htrue⟩
    refine ⟨px, py, ?_, (hu px py).trans htrue⟩
    by_contra ht
    rw [hoff px py ht, hfalse] at htrue
    cases htrue

/-- Settles O48: of the effects, two write the display; of the transactions, LOAD writes memory, TICK the timers, SET_KEY the keys. -/
theorem displayWrittenOnlyByClsAndDrw : Obligations.DisplayWrittenOnlyByClsAndDrw := by
  refine ⟨fun i s t h hne => (effect_of_exec h).disp_ne hne, fun b b' tx r h hne => ?_⟩
  cases tx with
  | reset => exact .inr rfl
  | step => exact .inl rfl
  | load image =>
    refine absurd ?_ hne
    obtain ⟨-, ⟨t, hl, rfl, -⟩ | ⟨e, -, rfl, -⟩⟩ := loadOn_cases h
    · obtain ⟨-, -, rfl⟩ := State.load_eq_ok hl
      rfl
    · rfl
  | tick | getDisplay | getSoundTimer | getDelayTimer | getStatus =>
    cases h
    exact absurd rfl hne
  | setKey k p =>
    cases h
    exact absurd (b.state.setKey_disp k p) hne

end Sys2Proof.Machine

/-! # Proofs: the key wait, TICK and SET_KEY (45_keys_timers.md R232, 60_exceptions.md R262, R263) -/

namespace Sys2Proof.Machine

/-- Settles O50: the wait begins, and nothing else is written. -/
theorem keyWaitBegins : Obligations.KeyWaitBegins :=
  fun x => ⟨decodeWord_ldVxK x, fun _ => rfl⟩

/-! ### TICK (R262) -/

/-- "decrements ... by 1 if nonzero" is the truncated difference. -/
theorem countDown_toNat (v : Byte) : (countDown v).toNat = v.toNat - 1 := by
  unfold countDown
  split
  next h => rw [h]; rfl
  next h => bv_omega

/-- Settles O51: both timers count down, in every status and phase. -/
theorem tickCountsDown : Obligations.TickCountsDown :=
  ⟨fun s => ⟨countDown_toNat s.DT, countDown_toNat s.ST, rfl⟩, fun _ => rfl⟩

/-! ### SET_KEY (R263) -/

theorem State.keyDown_writeKey (s : State) (k : KeyIdx) (p : Bool) (j : KeyIdx) :
    (s.writeKey k p).keyDown j = if k = j then p else s.keyDown j := by
  simp [State.keyDown, Vector.getElem_set, BitVec.toNat_inj]

theorem State.noKeyDown_iff (s : State) : s.noKeyDown = true ↔ ∀ j, s.keyDown j = false := by
  rw [State.noKeyDown, List.all_eq_true]
  constructor
  · intro h j
    simpa [State.keyDown] using h (s.keyDown j) (Vector.mem_toList_iff.mpr (Vector.getElem_mem j.isLt))
  · intro h p hp
    obtain ⟨k, hk, rfl⟩ := Vector.mem_iff_getElem.mp (Vector.mem_toList_iff.mp hp)
    have hup : s.key[k] = false := h (BitVec.ofFin ⟨k, hk⟩)
    rw [hup]
    rfl

/-- A press latches its key: it is the first key down, in a wait with none latched. -/
abbrev State.Latches (s : State) (p : Bool) : Prop :=
  p = true ∧ (∀ j, s.keyDown j = false) ∧ s.wait ≠ none ∧ s.kev = none

theorem State.setKey_toNat (s : State) (k : KeyIdx) (p : Bool) : s.setKey k.toNat p = s.setKeyIdx k p := by
  have := k.isLt
  rw [State.setKey, if_pos (by omega), ofNat_toNat_regIdx]

theorem State.setKey_of_latches {s : State} (k : KeyIdx) {p : Bool} (h : s.Latches p) :
    s.setKey k.toNat p = (s.writeKey k p).latchKey k := by
  obtain ⟨hp, hup, hw, hk⟩ := h
  rw [s.setKey_toNat, State.setKeyIdx, if_pos]
  simp [hp, s.noKeyDown_iff.mpr hup, Option.isSome_iff_ne_none.mpr hw, hk]

theorem State.setKey_of_not_latches {s : State} (k : KeyIdx) {p : Bool} (h : ¬ s.Latches p) :
    s.setKey k.toNat p = s.writeKey k p := by
  rw [s.setKey_toNat, State.setKeyIdx, if_neg]
  simpa [State.noKeyDown_iff, Option.isSome_iff_ne_none, and_assoc] using h

/-- Settles O52: the key state is written in either case, the latch where the press latches. -/
theorem setKeyWritesAndLatches : Obligations.SetKeyWritesAndLatches := by
  refine ⟨fun s p => ⟨fun k hk => ?ignored, fun k => ?key⟩, fun _ _ _ => rfl⟩
  case ignored => rw [State.setKey, if_neg (by omega)]
  case key =>
    have hwrite (j : KeyIdx) : (s.writeKey k p).keyDown j = if k = j then p else s.keyDown j := s.keyDown_writeKey k p j
    by_cases h : s.Latches p
    · rw [State.setKey_of_latches k h]
      exact ⟨(hwrite k).trans (if_pos rfl), fun j hj => (hwrite j).trans (if_neg (Ne.symm hj)), fun _ => rfl, fun hn => absurd h hn, rfl⟩
    · rw [State.setKey_of_not_latches k h]
      exact ⟨(hwrite k).trans (if_pos rfl), fun j hj => (hwrite j).trans (if_neg (Ne.symm hj)), fun hl => absurd hl h, fun _ => rfl, rfl⟩

/-- Settles O53: the wait has no latch until the first press from none gives it one, and the next step writes it. -/
theorem keyWaitEndsOnFirstPress : Obligations.KeyWaitEndsOnFirstPress := by
  intro x k s t hs h
  cases h
  have hwait (u : State) (hus : u.status = .running) (huw : u.wait = some x) :=
    stepBy_keyWait exec Param.unknownOpcodePolicy hus huw
  refine ⟨(hwait (s.beginWait x) hs rfl).1 rfl, fun hup => ?first, fun j hdown => ?held⟩
  case first =>
    have hl : (s.beginWait x).Latches true := ⟨rfl, hup, by simp, rfl⟩
    rw [State.setKey_of_latches k hl]
    obtain ⟨v, hv, hx, hother, hpost⟩ := (hwait (((s.beginWait x).writeKey k true).latchKey k) hs rfl).2 k rfl
    refine ⟨v, hv, hx, hother, ?_⟩
    rw [hpost]
    exact ⟨rfl, rfl, rfl, hs⟩
  case held =>
    have hl : ¬ (s.beginWait x).Latches true := fun hl => absurd ((hl.2.1 j).symm.trans hdown) (by decide)
    rw [State.setKey_of_not_latches k hl]
    exact (hwait ((s.beginWait x).writeKey k true) hs rfl).1 rfl

end Sys2Proof.Machine

/-! # Proofs: reset, LOAD and the reads (70_reset_and_hazards.md R280-R284, 60_exceptions.md R265-R267, 40_engine.md R104) -/

namespace Sys2Proof.Machine

/-! ### The reset state (R280) -/

/-- Past the 80 bytes of a font table an address reads as zero (R38, R39). -/
theorem Memory.resetByte_of_length {fontBase : Nat} {fontGlyphs : List Byte} (hlen : fontGlyphs.length = 80) (a : Nat) :
    Memory.resetByte fontBase fontGlyphs a =
      if fontBase ≤ a ∧ a < fontBase + 80 then fontGlyphs.getD (a - fontBase) 0x00#8 else 0x00#8 := by
  unfold Memory.resetByte
  by_cases hbase : fontBase ≤ a
  · by_cases hend : a < fontBase + 80
    · rw [if_pos hbase, if_pos ⟨hbase, hend⟩]
    · rw [if_pos hbase, if_neg (fun h => hend h.2), List.getD_eq_default _ _ (by omega)]
  · rw [if_neg hbase, if_neg (fun h => hbase h.1)]

/-- Settles O55: the fields are those of the table, and the memory lists nothing. -/
theorem resetValues : Obligations.ResetValues := by
  refine ⟨fun j => ?regs, rfl, rfl, rfl, fun j hj => ?stack, rfl, rfl, fun px py => Display.pixel_blank px py, fun k => ?keys, rfl, rfl,
    rfl, fun a _ => Memory.resetByte_of_length rfl a⟩
  case regs => simp [State.reset, State.reg]
  case stack => simp [State.reset]
  case keys => simp [State.reset, State.keyDown]

/-! ### LOAD (R283, R284) -/

section
variable {s t : State} {b b' : Block} {image : List Byte} {restarted : State}

theorem State.load_of_fits (hle : image.length ≤ 3584) (heven : image.length % 2 = 0) :
    s.load image = .ok (s.setMem (Memory.writeBytes s.mem 0x200 image)) := by
  rw [State.load, if_neg (Nat.not_lt.mpr hle), if_neg (by omega)]

theorem State.load_of_large (hlt : 3584 < image.length) : s.load image = .error .programTooLarge :=
  if_pos hlt

theorem State.load_of_odd (hle : image.length ≤ 3584) (hodd : image.length % 2 = 1) : s.load image = .error .oddLength := by
  rw [State.load, if_neg (Nat.not_lt.mpr hle), if_pos hodd]

theorem loadOn_of_ok (hp : b.phase = .fresh) (hs : b.state = restarted) (hl : b.state.load image = .ok t) :
    b.loadOn restarted image = .next (⟨t, .begun⟩, .done) := by
  rw [Block.loadOn, if_pos ⟨hp, hs⟩, hl]

theorem loadOn_of_error {e : LoadError} (hp : b.phase = .fresh) (hs : b.state = restarted) (hl : b.state.load image = .error e) :
    b.loadOn restarted image = .next (⟨b.state, .loadFailed⟩, .loadFailed e) := by
  rw [Block.loadOn, if_pos ⟨hp, hs⟩, hl]

theorem loadOn_of_out_of_place (h : ¬(b.phase = .fresh ∧ b.state = restarted)) :
    b.loadOn restarted image = .refused .loadOutOfPlace :=
  if_neg h

/-- A LOAD in its place answers as State.load says, whatever state RESET gives. -/
theorem answersLoad_loadOn (hp : b.phase = .fresh) (hs : b.state = restarted) : b.answersLoad image (b.loadOn restarted image) := by
  refine ⟨fun hle heven => ?_, fun hlt => ?_, fun hle hodd => ?_⟩
  · have hl := State.load_of_fits (s := b.state) hle heven
    exact ⟨_, hl, loadOn_of_ok hp hs hl⟩
  · have hl := State.load_of_large (s := b.state) hlt
    exact ⟨hl, loadOn_of_error hp hs hl⟩
  · have hl := State.load_of_odd (s := b.state) hle hodd
    exact ⟨hl, loadOn_of_error hp hs hl⟩

theorem stepOnceBy_of_next {step : State → Host.Outcome State Fault Refusal} (hp : b.phase ≠ .loadFailed)
    (h : step b.state = .next t) : b.stepOnceBy step = .next (⟨t, .begun⟩, .stepped t.status.stepResult) := by
  rw [Block.stepOnceBy, if_neg hp, h]

theorem stepOnceBy_of_loadFailed {step : State → Host.Outcome State Fault Refusal} (hp : b.phase = .loadFailed) :
    b.stepOnceBy step = .refused .runNeverBegan :=
  if_pos hp

/-- Only RESET makes the phase fresh; RESET, LOAD and STEP are all that move it (log 35). -/
theorem transact_phase {tx : Transaction} {r : Reply} (h : b.transact tx = .next (b', r)) :
    (tx ≠ .reset → b'.phase = .fresh → b.phase = .fresh) ∧
    (tx ≠ .reset → tx ≠ .step → (∀ image, tx ≠ .load image) → b'.phase = b.phase) := by
  cases tx with
  | reset => exact ⟨fun hne => absurd rfl hne, fun hne => absurd rfl hne⟩
  | load image =>
    refine ⟨fun _ _ => ?_, fun _ _ hne => absurd rfl (hne image)⟩
    obtain ⟨⟨hp, -⟩, -⟩ := loadOn_cases h
    exact hp
  | step =>
    refine ⟨fun _ hfresh => ?_, fun _ hne => absurd rfl hne⟩
    obtain ⟨-, -, hbegun, -⟩ := stepOnceBy_cases h
    rw [hbegun] at hfresh
    cases hfresh
  | tick | setKey | getDisplay | getSoundTimer | getDelayTimer | getStatus =>
    cases h
    exact ⟨fun _ hfresh => hfresh, fun _ _ _ => rfl⟩

end

/-- Settles O56: the image is written to its range alone, or nothing is written. -/
theorem loadCopiesImage : Obligations.LoadCopiesImage :=
  fun s image => ⟨fun hle heven => ⟨_, State.load_of_fits hle heven,
    fun _ hk => Memory.byteAt_writeBytes_of_inside s.mem 0x200 image hk, s.onlyBytes_writeBytes 0x200 image⟩,
    State.load_of_large, State.load_of_odd⟩

/-- Settles O57: LOAD asks for the fresh phase and the reset state, and no other transaction gives the phase back. -/
theorem loadOnlyInItsPlace : Obligations.LoadOnlyInItsPlace := by
  refine ⟨fun _ => rfl, fun b image => ⟨⟨b.state.restart, .fresh⟩, rfl, ?once⟩, fun b image hp hs => answersLoad_loadOn hp hs,
    fun b image hp => loadOn_of_out_of_place fun h => hp h.1, fun b image hs => loadOn_of_out_of_place fun h => hs h.2,
    fun b b' tx r h => transact_phase h, fun b b' r h => ?begun, fun b hp => stepOnceBy_of_loadFailed hp⟩
  case once =>
    cases hl : b.state.restart.load image with
    | ok t => exact ⟨_, _, loadOn_of_ok rfl rfl hl, fun _ => rfl, fun hne => absurd rfl hne⟩
    | error e => exact ⟨_, _, loadOn_of_error rfl rfl hl, fun hdone => Reply.noConfusion hdone, fun _ => ⟨rfl, rfl⟩⟩
  case begun =>
    obtain ⟨-, -, hbegun, -⟩ := stepOnceBy_cases h
    exact hbegun

/-! ### The flattened display (R265) -/

/-- A fold that joins bit strings has the bits that one of them has. -/
theorem getLsbD_foldl_or {α : Type} {w : Nat} (f : α → BitVec w) (l : List α) (acc : BitVec w) (k : Nat) :
    (l.foldl (fun acc a => acc ||| f a) acc).getLsbD k = (acc.getLsbD k || l.any fun a => (f a).getLsbD k) := by
  induction l generalizing acc with
  | nil => simp
  | cons a l ih => rw [List.foldl_cons, ih, BitVec.getLsbD_or, List.any_cons, Bool.or_assoc]

theorem Display.getLsbD_rowBits (d : Display) (x : Fin 64) (y : Fin 32) : (d.rowBits y).getLsbD x.val = d.pixel x y := by
  have hor : d.rowBits y = (List.finRange 64).foldl (fun acc z => acc ||| if d.pixel z y then 1#64 <<< z.val else 0#64) 0#64 := by
    unfold Display.rowBits
    congr 1
    funext acc z
    split <;> simp
  rw [hor, getLsbD_foldl_or, BitVec.getLsbD_zero, Bool.false_or, Bool.eq_iff_iff, List.any_eq_true]
  have hbit (z : Fin 64) : (if d.pixel z y then 1#64 <<< z.val else 0#64).getLsbD x.val = true ↔ d.pixel z y = true ∧ z = x := by
    have hx := x.isLt
    rw [Fin.ext_iff]
    split
    next hp =>
      simp only [hp, BitVec.getLsbD_shiftLeft, BitVec.getLsbD_one, Bool.and_eq_true, Bool.not_eq_true', decide_eq_true_eq,
        decide_eq_false_iff_not, true_and]
      omega
    next hp => simp [hp]
  constructor
  · rintro ⟨z, -, hz⟩
    obtain ⟨hp, rfl⟩ := (hbit z).mp hz
    exact hp
  · exact fun hp => ⟨x, List.mem_finRange x, (hbit x).mpr ⟨hp, rfl⟩⟩

theorem Display.getLsbD_flatten (d : Display) (x : Fin 64) (y : Fin 32) : d.flatten.getLsbD (y.val * 64 + x.val) = d.pixel x y := by
  have hx := x.isLt
  have hy := y.isLt
  rw [Display.flatten, getLsbD_foldl_or, BitVec.getLsbD_zero, Bool.false_or, ← d.getLsbD_rowBits x y, Bool.eq_iff_iff, List.any_eq_true]
  have hbit (z : Fin 32) : ((d.rowBits z).setWidth 2048 <<< (z.val * 64)).getLsbD (y.val * 64 + x.val) = true ↔
      z.val * 64 ≤ y.val * 64 + x.val ∧ (d.rowBits z).getLsbD (y.val * 64 + x.val - z.val * 64) = true := by
    simp only [BitVec.getLsbD_shiftLeft, BitVec.getLsbD_setWidth, Bool.and_eq_true, Bool.not_eq_true', decide_eq_true_eq,
      decide_eq_false_iff_not]
    constructor
    · exact fun ⟨⟨_, hle⟩, _, hrow⟩ => ⟨by omega, hrow⟩
    · exact fun ⟨hle, hrow⟩ => ⟨⟨by omega, by omega⟩, by omega, hrow⟩
  constructor
  · rintro ⟨z, -, hz⟩
    obtain ⟨hle, hrow⟩ := (hbit z).mp hz
    have hlt : y.val * 64 + x.val - z.val * 64 < 64 := BitVec.lt_of_getLsbD hrow
    obtain rfl : z = y := Fin.ext (by omega)
    rwa [Nat.add_sub_cancel_left] at hrow
  · refine fun hrow => ⟨y, List.mem_finRange y, (hbit y).mpr ⟨by omega, ?_⟩⟩
    rwa [Nat.add_sub_cancel_left]

/-! ### The obligation -/

/-- The host's outcome of a STEP says the status (R104). -/
theorem stepResult_cases (v : Status) :
    (Reply.stepped v.stepResult = .stepped .continued ∧ v = .running) ∨ (Reply.stepped v.stepResult = .stepped .halted ∧ v = .halted) ∨
      ∃ k a w, Reply.stepped v.stepResult = .stepped (.fault k a w) ∧ v = .faulted k a w := by
  cases v with
  | running => exact .inl ⟨rfl, rfl⟩
  | halted => exact .inr (.inl ⟨rfl, rfl⟩)
  | faulted k a w => exact .inr (.inr ⟨k, a, w, rfl, rfl⟩)

/-- Settles O58: each read is its field, and STEP is the step of the engine with its status as the outcome. -/
theorem readsReportState : Obligations.ReadsReportState := by
  refine ⟨fun b => ⟨_, rfl, rfl, Display.getLsbD_flatten _⟩, fun b => ⟨rfl, rfl, ?tone⟩, fun _ => rfl,
    fun b t hp h => stepOnceBy_of_next hp h, fun b b' r h => ?outcome,
    fun b hp hs => stepOnceBy_of_next hp (step_of_finished b.state hs)⟩
  case tone => simp [State.toneActive_iff, BitVec.toNat_eq]
  case outcome =>
    obtain ⟨-, hstep, -, rfl⟩ := stepOnceBy_cases h
    exact ⟨hstep, rfl, _, rfl, rfl, stepResult_cases _⟩

end Sys2Proof.Machine

/-! # Proofs: the machine under parameters (00_scope.md R11) -/

namespace Sys2Proof.Machine

/-! ### The reset state (R38, R39, R280) -/

/-- Past the reserved range nothing of this hardware's font table stands. -/
theorem Memory.unlisted_of_le {a : Nat} (h : Config.programBase ≤ a) : Memory.unlisted a = 0x00#8 := by
  have hend : Param.fontBase + 80 ≤ a := Nat.le_trans (by decide) h
  rw [Memory.unlisted, Memory.resetByte_of_length rfl, if_neg (by omega)]

theorem Memory.byteAt_withFont_of_legal {p : Params} (hp : p.legal) (a : Nat) :
    Memory.byteAt (Memory.withFont p.fontBase p.fontGlyphs) a =
      if p.fontBase ≤ a ∧ a < p.fontBase + 80 then p.fontGlyphs.getD (a - p.fontBase) 0x00#8 else 0x00#8 := by
  obtain ⟨hend, hlen⟩ := hp
  rw [Memory.byteAt_withFont]
  split
  next => exact Memory.resetByte_of_length hlen a
  next hout => rw [Memory.unlisted_of_le (Nat.le_of_not_lt hout), if_neg (by omega)]

/-- With this hardware's table every byte written is what its address reads as unlisted. -/
theorem Memory.withFont_values : Memory.withFont Param.values.fontBase Param.values.fontGlyphs = [] := by
  unfold Memory.withFont
  refine Memory.writeBytes_unlisted 0 _ fun k hk => ?_
  rw [List.getElem_map, List.getElem_range, Nat.zero_add]
  rfl

theorem State.resetWith_values : State.resetWith Param.values = State.reset :=
  congrArg State.reset.setMem Memory.withFont_values

/-- Settles O59: the reserved range is written whole, and what is above it reads as zero under every legal table. -/
theorem resetTakesAnyFont : Obligations.ResetTakesAnyFont :=
  ⟨fun p hp => ⟨fun a _ => Memory.byteAt_withFont_of_legal hp a, rfl, State.inv_of_reset (Memory.wf_withFont p.fontBase p.fontGlyphs) 0⟩,
    State.resetWith_values⟩

/-! ### The execution, the step and the transactions -/

section
variable (p : Params)

theorem execWith_of_ne {i : Instr} (s : State) (hF : ∀ x, i ≠ .ldFVx x) (hdrw : ∀ x y n, i ≠ .drw x y n) :
    execWith p i s = exec i s := by
  rcases execWith_cases p i s with ⟨x, hi, -⟩ | ⟨x, y, n, hi, -⟩ | h
  · exact absurd hi (hF x)
  · exact absurd hi (hdrw x y n)
  · exact h

theorem execWith_ldFVx (x : RegIdx) (s : State) : ∃ t, execWith p (.ldFVx x) s = .next t ∧
    t.I.toNat = (p.fontBase + 5 * ((s.reg x).toNat % 16)) % 4096 ∧ s.onlyI t :=
  ⟨_, rfl, s.setI_glyphAddr_toNat p.fontBase _, s.onlyI_setI _⟩

theorem execWith_drw (x y : RegIdx) (n : BitVec 4) (s : State) : ∃ t, execWith p (.drw x y n) s = .next t ∧
    (s.I.toNat + n.toNat ≤ 4096 → s.drewSprite t p.spriteEdge x y n.toNat) ∧
    (4096 < s.I.toNat + n.toNat → s.faultedFrom t .memoryBoundsViolation (0xD#4 ++ x ++ y ++ n)) :=
  ⟨_, rfl, drwWith_drewSprite p.spriteEdge x y n s, fun hlt => drwWith_of_lt p.spriteEdge x y n s hlt⟩

theorem execWith_next (i : Instr) (s : State) : ∃ t, execWith p i s = .next t := by
  obtain ⟨t, ht, -⟩ := execWith_effect p i s
  exact ⟨t, ht⟩

/-- RESET, LOAD and STEP are all that read a parameter. -/
theorem transactWith_of_ne (b : Block) {tx : Transaction} (hreset : tx ≠ .reset) (hstep : tx ≠ .step)
    (hload : ∀ image, tx ≠ .load image) : b.transactWith p tx = b.transact tx := by
  cases tx with
  | reset => exact absurd rfl hreset
  | step => exact absurd rfl hstep
  | load image => exact absurd rfl (hload image)
  | tick | setKey | getDisplay | getSoundTimer | getDelayTimer | getStatus => rfl

end

/-! ### Under the values this spec takes, the machine is this hardware -/

theorem execWith_values : execWith Param.values = exec := by
  funext i s
  cases i <;> rfl

theorem stepWith_values : stepWith Param.values = step := by
  unfold stepWith
  rw [execWith_values]
  rfl

theorem State.restartWith_values (s : State) : s.restartWith Param.values = s.restart := by
  unfold State.restartWith
  rw [State.resetWith_values]
  rfl

theorem transactWith_values (b : Block) (tx : Transaction) : b.transactWith Param.values tx = b.transact tx := by
  cases tx with
  | reset => exact congrArg (fun t => Host.Outcome.next ((⟨t, .fresh⟩ : Block), Reply.done)) b.state.restartWith_values
  | load image => exact congrArg (b.loadOn · image) b.state.restartWith_values
  | step => exact congrArg b.stepOnceBy stepWith_values
  | tick | setKey | getDisplay | getSoundTimer | getDelayTimer | getStatus => rfl

/-- Settles O60: the laws of stepBy and of loadOn hold for whatever is run and for whatever state RESET gives. -/
theorem stepTakesAnyParameters : Obligations.StepTakesAnyParameters := by
  refine ⟨fun p => ⟨fun _ s hF hdrw => execWith_of_ne p s hF hdrw, execWith_ldFVx p, execWith_drw p, ?instr, ?finished, ?keyWait,
    ?pastEnd, stepBy_next (execWith_next p), fun _ _ hinv h => hinv.stepBy effect_of_execWith h, fun _ => rfl, fun b image => ⟨?load, ?refused⟩,
    fun _ hp => stepOnceBy_of_loadFailed hp, fun _ _ hp h => stepOnceBy_of_next hp h,
    fun b _ hreset hstep hload => transactWith_of_ne p b hreset hstep hload⟩, fun s => congrFun stepWith_values s, transactWith_values⟩
  case instr => exact fun s _ _ hs hw hf hd => stepBy_of_instr (execWith p) p.unknownOpcodePolicy s hs hw hf hd
  case finished => exact stepBy_of_finished (execWith p) p.unknownOpcodePolicy
  case keyWait => exact fun _ _ hs hw => stepBy_keyWait (execWith p) p.unknownOpcodePolicy hs hw
  case pastEnd =>
    exact fun s hs hw hpc => stepBy_of_past_end (execWith p) p.unknownOpcodePolicy s hs hw (s.fetchWord_of_lt hpc)
  case load => exact fun hp hs => answersLoad_loadOn hp hs
  case refused => exact fun h => loadOn_of_out_of_place fun ⟨hp, hs⟩ => h.elim (absurd hp) (absurd hs)

end Sys2Proof.Machine
